-- ==== Sys2Proof/Word.lean ====
section
/-!
DEFINITION. Widths and the register bank type (spec/00_scope.md R13; spec/10_state.md R21, R22).
-/

namespace Sys2Proof

/-- A value of width 8 (R13). -/
abbrev Byte := BitVec 8

/-- A value of width 16: the operand field `a` and the length registers (30 R90, 10 R20). -/
abbrev Half := BitVec 16

/-- A value of width 32: a table word, a block half, a command word, a response word (R13). -/
abbrev Word := BitVec 32

/-- A value of width 64: a cipher block (R13). -/
abbrev Block := BitVec 64

/-- A bank of exactly `n` elements, index 0 first. -/
structure Bank (α : Type) (n : Nat) where
  toList : List α
  size : toList.length = n
deriving DecidableEq, Repr

end Sys2Proof
end

