-- ==== Sys2Proof/Machine/BitPacking.lean ====
section
/-!
DEFINITION. BitPacking (spec/40_bitpacking.md): conversions between byte sequences and unsigned
integers, most significant byte first.
-/

namespace Sys2Proof.Machine

/-- `bytesToUint(s, n)` for a sequence of length `n`, as a natural (R120). -/
def bytesToNat (s : List Byte) : Nat := s.foldl (fun acc b => acc * 256 + b.toNat) 0

/-- `bytesToUint(s, 4)` (R120). -/
def bytesToWord (s : List Byte) : Word := BitVec.ofNat 32 (bytesToNat s)

/-- `bytesToUint(s, 8)` (R120). -/
def bytesToBlock (s : List Byte) : Block := BitVec.ofNat 64 (bytesToNat s)

/-- `uintToBytes(v, w)`: byte `k` is `v[w - 8k - 1 : w - 8k - 8]` (R121). -/
def uintToBytes {w : Nat} (v : BitVec w) : List Byte :=
  (List.range (w / 8)).map fun k => v.extractLsb' (w - 8 * k - 8) 8

/-- `splitUint64(v)`: `(v[63:32], v[31:0])` (R122). -/
def splitUint64 (v : Block) : Word × Word := (v.extractLsb' 32 32, v.extractLsb' 0 32)

/-- `high32 ‖ low32`, the inverse of `splitUint64` (R122, 00 R13). -/
def joinUint64 (p : Word × Word) : Block := p.1 ++ p.2

end Sys2Proof.Machine
end

