-- ==== Sys2Proof/Config.lean ====
section
/-!
DEFINITION. What an implementation fixes: the parameters of spec/00_scope.md R5 to R11, and the free
values of the table words that spec/10_state.md R35 leaves unspecified.
-/

namespace Sys2Proof

/-- The parameters of one instance (R5 to R11). They are constants of the instance (10 R36); State
carries them in a field that no step changes (log 1). -/
structure Config where
  /-- `COST_MIN` (R5). -/
  costMin : Nat
  /-- `COST_MAX` (R5). -/
  costMax : Nat
  /-- `PW_MAX`, capacity of the password buffer in bytes (R6). -/
  pwMax : Nat
  /-- `D_MAX`, capacity of the data buffer in bytes (R7). -/
  dMax : Nat
  /-- `SALT_W`, characters of the salt field (R8). -/
  saltW : Nat
  /-- `HASH_W`, characters of the hash field (R8). -/
  hashW : Nat
  /-- `SEED[0..1041]` (R9), in the linear table order of 10 R23. -/
  seed : Bank Word 1042
  /-- `MAGIC`, the 24 bytes of the final-stage plaintext (R10). -/
  magic : Bank Byte 24
  /-- `ALPHABET`, the 64 characters of the text encoding (R11). -/
  alphabet : Bank Byte 64
deriving DecidableEq, Repr

/-- Free value: what table word `t` (linear index of 10 R23) holds after the `n`-th event that leaves
the tables unspecified (44 R191, 10 R35). No body: nothing constrains it (log 4). -/
opaque Config.freeTableWord (n t : Nat) : Word

end Sys2Proof
end

