-- ==== Sys2Proof/Syntax.lean ====
section
/-!
DEFINITION. The commands: format `C` (spec/30_encoding.md R90) and one constructor for each of the 23
commands of R93, in the order of the opcode table.
-/

namespace Sys2Proof

/-- The three fields of format `C` (R90): every 32-bit word splits into them. -/
structure Fields where
  /-- `op`, bits 31:24. -/
  op : Byte
  /-- `a`, bits 23:8. -/
  a : Half
  /-- `b`, bits 7:0. -/
  b : Byte
deriving DecidableEq, Repr

/-- `KSEL`, the key source of XKEY (R101). -/
inductive KeySource where
  | password
  | salt
deriving DecidableEq, Repr

/-- `SSEL`, the salt source of XKEY (R101). -/
inductive SaltSource where
  | zero
  | real
deriving DecidableEq, Repr

/-- The 23 commands (R93). An operand of a width the encoding gives it takes every value of that
width (R96); a value out of range is a run-time error of the command. -/
inductive Instr where
  | nop
  | clr
  | clrerr
  | setcost (b : Byte)
  | setslen (b : Byte)
  | setplen (a : Half)
  | setdlen (a : Half)
  | ldsalt (a : Half) (b : Byte)
  | ldpw (a : Half) (b : Byte)
  | ldd (a : Half) (b : Byte)
  | init
  | xkey (ksel : KeySource) (ssel : SaltSource)
  | genkeys
  | encblk (a : Half)
  | encbuf
  | encode
  | hash
  | rdstat
  | rdlen (a : Half)
  | rdp (a : Half)
  | rds (a : Half)
  | rdd (a : Half)
  | rdout (a : Half)
deriving DecidableEq, Repr

end Sys2Proof
end

