-- ==== Sys2Proof/WellFormed.lean ====
section
/-!
DEFINITION. Legality of the fields of a command word (spec/30_encoding.md R93 to R96) and of the
parameters of an instance (spec/00_scope.md R5 to R11). Written from the opcode map as predicates,
independently of the decoder.
-/

namespace Sys2Proof

/-- The opcodes of the map (R93); every other value of `op` is illegal (R94). -/
def Fields.opcodes : List Nat :=
  [0x00, 0x01, 0x02, 0x08, 0x09, 0x0A, 0x0B, 0x0C, 0x0D, 0x0E,
   0x10, 0x11, 0x12, 0x13, 0x14, 0x15, 0x16,
   0x20, 0x21, 0x22, 0x23, 0x24, 0x25]

/-- The opcodes whose command uses `a` (column "uses" of R93). -/
def Fields.opcodesUsingA : List Nat :=
  [0x0A, 0x0B, 0x0C, 0x0D, 0x0E, 0x13, 0x21, 0x22, 0x23, 0x24, 0x25]

/-- The opcodes whose command uses `b` or a part of it (column "uses" of R93). -/
def Fields.opcodesUsingB : List Nat := [0x08, 0x09, 0x0C, 0x0D, 0x0E, 0x11]

/-- Check 1 (R94): the opcode is in the map. -/
def Fields.opLegal (f : Fields) : Bool := f.op.toNat ∈ Fields.opcodes

/-- Check 2 (R95): `a` is 0 in a command that does not use it. -/
def Fields.aLegal (f : Fields) : Bool := f.op.toNat ∈ Fields.opcodesUsingA || f.a == 0

/-- Check 3 (R95): `b` is 0 in a command that does not use it. -/
def Fields.bLegal (f : Fields) : Bool := f.op.toNat ∈ Fields.opcodesUsingB || f.b == 0

/-- Check 4 (R95, R101): `b[7:2]` is 0 in XKEY. -/
def Fields.xkeyLegal (f : Fields) : Bool := f.op != 0x11 || f.b.extractLsb' 2 6 == 0

/-- The fields are a legal encoding (R94 to R96). -/
def Fields.wf (f : Fields) : Bool := f.opLegal && f.aLegal && f.bLegal && f.xkeyLegal

/-- The constraints on the parameters: cost range (R5), password capacity (R6), data capacity (R7),
field widths (R8), distinct ASCII characters (R11). -/
structure Config.Wf (c : Config) : Prop where
  cost_le : c.costMin ≤ c.costMax
  costMax_le : c.costMax ≤ 31
  pwMax_pos : 1 ≤ c.pwMax
  pwMax_le : c.pwMax ≤ 65535
  dMax_mod : c.dMax % 8 = 0
  dMax_ge : 24 ≤ c.dMax
  dMax_le : c.dMax ≤ 65528
  saltW_pos : 1 ≤ c.saltW
  saltW_le : c.saltW ≤ 22
  hashW_pos : 1 ≤ c.hashW
  hashW_le : c.hashW ≤ 32
  alphabet_nodup : c.alphabet.toList.Nodup
  alphabet_ascii : ∀ ch ∈ c.alphabet.toList, ch.toNat < 128

/-- The same constraints as a check that evaluates. -/
def Config.check (c : Config) : Bool :=
  decide (c.costMin ≤ c.costMax) && decide (c.costMax ≤ 31) &&
  decide (1 ≤ c.pwMax) && decide (c.pwMax ≤ 65535) &&
  decide (c.dMax % 8 = 0) && decide (24 ≤ c.dMax) && decide (c.dMax ≤ 65528) &&
  decide (1 ≤ c.saltW) && decide (c.saltW ≤ 22) &&
  decide (1 ≤ c.hashW) && decide (c.hashW ≤ 32) &&
  decide c.alphabet.toList.Nodup && decide (∀ ch ∈ c.alphabet.toList, ch.toNat < 128)

end Sys2Proof
end

