-- ==== Sys2Proof/Decode.lean ====
section
/-!
DEFINITION. The decoder, total on every 32-bit word and rejecting by name, and the encoder, both
written from the opcode map of spec/30_encoding.md R93.
-/

namespace Sys2Proof

/-- `op = w[31:24]`, `a = w[23:8]`, `b = w[7:0]`, whatever the command (R90). -/
def Fields.ofWord (w : Word) : Fields :=
  { op := w.extractLsb' 24 8, a := w.extractLsb' 8 16, b := w.extractLsb' 0 8 }

/-- The word of the three fields: `op * 2^24 + a * 2^8 + b` (R90, R98). -/
def Fields.toWord (f : Fields) : Word := f.op ++ f.a ++ f.b

/-- Why a word is no command. All of them are the one error `IllegalCommand` (60 R220 code 5); the
name tells which check of R94 or R95 fails first (log 12). -/
inductive DecodeError where
  /-- `op` is not in the map (R94). -/
  | unknownOpcode (op : Byte)
  /-- `a` is not 0 in a command that does not use it (R95). -/
  | aNotZero (op : Byte)
  /-- `b` is not 0 in a command that does not use it (R95). -/
  | bNotZero (op : Byte)
  /-- `b[7:2]` is not 0 in XKEY (R95). -/
  | xkeyBitsNotZero
deriving DecidableEq, Repr

/-- A command that uses neither field (R95). -/
def decodePlain (f : Fields) (i : Instr) : Except DecodeError Instr :=
  if f.a ≠ 0 then .error (.aNotZero f.op)
  else if f.b ≠ 0 then .error (.bNotZero f.op)
  else .ok i

/-- A command that uses `a` only (R95). -/
def decodeA (f : Fields) (k : Half → Instr) : Except DecodeError Instr :=
  if f.b ≠ 0 then .error (.bNotZero f.op) else .ok (k f.a)

/-- A command that uses `b` only (R95). -/
def decodeB (f : Fields) (k : Byte → Instr) : Except DecodeError Instr :=
  if f.a ≠ 0 then .error (.aNotZero f.op) else .ok (k f.b)

/-- `KSEL = b[0]` (R101). -/
def decodeKsel (b : Byte) : KeySource := if b.getLsbD 0 then .salt else .password

/-- `SSEL = b[1]` (R101). -/
def decodeSsel (b : Byte) : SaltSource := if b.getLsbD 1 then .real else .zero

/-- XKEY: `a` and `b[7:2]` must be 0 (R95, R101). -/
def decodeXkey (f : Fields) : Except DecodeError Instr :=
  if f.a ≠ 0 then .error (.aNotZero f.op)
  else if f.b.extractLsb' 2 6 ≠ 0 then .error .xkeyBitsNotZero
  else .ok (.xkey (decodeKsel f.b) (decodeSsel f.b))

/-- The opcode map (R93). -/
def decodeFields (f : Fields) : Except DecodeError Instr :=
  match f.op with
  | 0x00#8 => decodePlain f .nop
  | 0x01#8 => decodePlain f .clr
  | 0x02#8 => decodePlain f .clrerr
  | 0x08#8 => decodeB f .setcost
  | 0x09#8 => decodeB f .setslen
  | 0x0A#8 => decodeA f .setplen
  | 0x0B#8 => decodeA f .setdlen
  | 0x0C#8 => .ok (.ldsalt f.a f.b)
  | 0x0D#8 => .ok (.ldpw f.a f.b)
  | 0x0E#8 => .ok (.ldd f.a f.b)
  | 0x10#8 => decodePlain f .init
  | 0x11#8 => decodeXkey f
  | 0x12#8 => decodePlain f .genkeys
  | 0x13#8 => decodeA f .encblk
  | 0x14#8 => decodePlain f .encbuf
  | 0x15#8 => decodePlain f .encode
  | 0x16#8 => decodePlain f .hash
  | 0x20#8 => decodePlain f .rdstat
  | 0x21#8 => decodeA f .rdlen
  | 0x22#8 => decodeA f .rdp
  | 0x23#8 => decodeA f .rds
  | 0x24#8 => decodeA f .rdd
  | 0x25#8 => decodeA f .rdout
  | op => .error (.unknownOpcode op)

/-- Step (1) and (2) of 44 R206: split the word, then consult the map. -/
def decode (w : Word) : Except DecodeError Instr := decodeFields (Fields.ofWord w)

/-- The five reads that answer 0 when they raise an error: RDLEN, RDP, RDS, RDD, RDOUT, told by the
opcode alone, so that an illegal form of one is included (R95, R97). -/
def readOpcode (op : Byte) : Bool :=
  op == 0x21 || op == 0x22 || op == 0x23 || op == 0x24 || op == 0x25

/-- The opcode of a command (R93). -/
def Instr.opcode : Instr → Byte
  | .nop => 0x00
  | .clr => 0x01
  | .clrerr => 0x02
  | .setcost _ => 0x08
  | .setslen _ => 0x09
  | .setplen _ => 0x0A
  | .setdlen _ => 0x0B
  | .ldsalt _ _ => 0x0C
  | .ldpw _ _ => 0x0D
  | .ldd _ _ => 0x0E
  | .init => 0x10
  | .xkey _ _ => 0x11
  | .genkeys => 0x12
  | .encblk _ => 0x13
  | .encbuf => 0x14
  | .encode => 0x15
  | .hash => 0x16
  | .rdstat => 0x20
  | .rdlen _ => 0x21
  | .rdp _ => 0x22
  | .rds _ => 0x23
  | .rdd _ => 0x24
  | .rdout _ => 0x25

/-- The `a` field of a command, 0 where it is unused (R93, R95). -/
def Instr.fieldA : Instr → Half
  | .setplen a | .setdlen a | .ldsalt a _ | .ldpw a _ | .ldd a _ | .encblk a
  | .rdlen a | .rdp a | .rds a | .rdd a | .rdout a => a
  | .nop | .clr | .clrerr | .setcost _ | .setslen _ | .init | .xkey _ _ | .genkeys
  | .encbuf | .encode | .hash | .rdstat => 0

/-- The `b` value of XKEY: `KSEL` in bit 0, `SSEL` in bit 1 (R101). -/
def encodeXkeyB : KeySource → SaltSource → Byte
  | .password, .zero => 0
  | .salt, .zero => 1
  | .password, .real => 2
  | .salt, .real => 3

/-- The `b` field of a command, 0 where it is unused (R93, R95). -/
def Instr.fieldB : Instr → Byte
  | .setcost b | .setslen b | .ldsalt _ b | .ldpw _ b | .ldd _ b => b
  | .xkey k s => encodeXkeyB k s
  | .nop | .clr | .clrerr | .setplen _ | .setdlen _ | .init | .genkeys | .encblk _
  | .encbuf | .encode | .hash | .rdstat | .rdlen _ | .rdp _ | .rds _ | .rdd _ | .rdout _ => 0

/-- The word of a command (R90, R98). -/
def encode (i : Instr) : Word :=
  Fields.toWord { op := i.opcode, a := i.fieldA, b := i.fieldB }

/-- The word of the opcode table's bits: `nbits` bits of `w`, every bit above them 0. -/
def tableWord (nbits w : Nat) : Word := BitVec.ofNat 32 (w % 2 ^ nbits)

/-- What the decoder reads from the instruction whose bits are `w`, numbered as the opcode table
numbers them (a command is one 32-bit word, so bit 0 is the word's bit 0). -/
def decodeTableWord (nbits w : Nat) : Option Instr :=
  if w % 2 ^ nbits < 2 ^ 32 then
    match decode (tableWord nbits w) with
    | .ok i => some i
    | .error _ => none
  else none

end Sys2Proof
end

