-- ==== Sys2Proof/Machine/Bank.lean ====
section
/-!
DEFINITION. Reading, writing and filling a register bank. An index is a `Fin`, so the ENGINE forms no
index outside a bank (spec/20_memory.md R68).
-/

namespace Sys2Proof

/-- Element `i`. -/
def Bank.get {α : Type} {n : Nat} (b : Bank α n) (i : Fin n) : α :=
  b.toList[i.val]'(by rw [b.size]; exact i.isLt)

/-- The bank with element `i` replaced; no other element changes. -/
def Bank.set {α : Type} {n : Nat} (b : Bank α n) (i : Fin n) (v : α) : Bank α n :=
  { toList := b.toList.set i v, size := by rw [List.length_set, b.size] }

/-- The bank whose element `i` is `f i`. -/
def Bank.tabulate {α : Type} (n : Nat) (f : Fin n → α) : Bank α n :=
  { toList := (List.finRange n).map f, size := by rw [List.length_map, List.length_finRange] }

end Sys2Proof
end

