-- ==== Sys2Proof/Machine/State.lean ====
section
/-!
DEFINITION. The state of one engine instance (spec/10_state.md R20), the port events of the host
(spec/30_encoding.md R100, spec/70_reset_and_hazards.md R250, R255), and the state after reset
(10 R35). Plain data.
-/

namespace Sys2Proof.Machine

/-- A byte space (20 R60): the listed bytes by index. Canonical form: indices strictly rising, no
listed byte equal to what an unlisted index reads as (log 9). -/
abbrev Memory := List Host.Cell

/-- What an unlisted byte reads as: every byte of SALT, PW, D and OUT is 0 after reset (10 R35). -/
def Memory.unlisted : Byte := 0

/-- The canonical form. -/
abbrev Memory.wf (m : Memory) : Prop :=
  m.Pairwise (fun x y => x.1 < y.1) ∧ ∀ c ∈ m, c.2 ≠ Memory.unlisted

/-- Every listed byte lies inside a space of `cap` bytes (20 R60). -/
abbrev Memory.within (m : Memory) (cap : Nat) : Prop := ∀ c ∈ m, c.1 < cap

/-- The 1042 table words (10 R21, R22): `P[0..17]` and `S[0..3][0..255]`. -/
structure Tables where
  p : Bank Word 18
  s : Bank (Bank Word 256) 4
deriving DecidableEq, Repr

/-- `TSTATE`, the table-state tag (10 R28). -/
inductive TState where
  /-- The tables hold no defined value. -/
  | uninit
  /-- The tables hold exactly `SEED`. -/
  | seeded
  /-- Changed by XKEY, or FINAL and an input has since been rewritten. -/
  | mixed
  /-- The finished tables of the present `COST`, `SALT`, `PW`, `PLEN`. -/
  | final
deriving DecidableEq, Repr

/-- The error kinds of 60 R220. -/
inductive ErrKind where
  | invalidCost
  | invalidSaltLength
  | emptyPassword
  /-- Kept by the document, never raised (60 R229). -/
  | allocationFailure
  | illegalCommand
  | badIndex
  | badLength
  | tablesState
deriving DecidableEq, Repr

/-- What the host does at the port (log 5, log 7). -/
inductive HostEvent where
  /-- The host sends a command word and waits for its response (30 R100, 70 R262). -/
  | command (w : Word)
  /-- The host applies reset between commands (70 R250). -/
  | reset
  /-- The host applies reset after the word was accepted and before its response (70 R255). -/
  | cutShort (w : Word)
deriving DecidableEq, Repr

/-- The state of one instance: the tuple of 10 R20, the parameters (log 1) and the model's own
`freeNext`, `input`, `responses` (log 5, log 17). -/
structure State where
  /-- The parameters of the instance, constant (00 R5 to R11, 10 R36). -/
  cfg : Config
  /-- `P` and `S`. -/
  tab : Tables
  /-- `TSTATE`. -/
  tstate : TState
  /-- `COST`. -/
  cost : Byte
  /-- `SLEN`. -/
  slen : Byte
  /-- `SALT[0..15]`. -/
  salt : Memory
  /-- `PLEN`. -/
  plen : Half
  /-- `PW[0..PW_MAX-1]`. -/
  pw : Memory
  /-- `DLEN`. -/
  dlen : Half
  /-- `D[0..D_MAX-1]`. -/
  d : Memory
  /-- `OLEN`. -/
  olen : Byte
  /-- `OUT[0..OUT_LEN-1]`. -/
  out : Memory
  /-- `ERR`. -/
  err : Bool
  /-- `ERRCODE`. -/
  errcode : BitVec 4
  /-- The model's own: number of the next draw of free table words (log 4). -/
  freeNext : Nat
  /-- The model's own: the port events to come (log 5). -/
  input : List HostEvent
  /-- The model's own: the response words produced, oldest first (log 5). -/
  responses : List Word
deriving DecidableEq, Repr

/-- The machine never stops with a fault: a command that cannot be performed records an error and the
engine goes on (60 R222, R233, 44 R206). No constructor (log 11). -/
inductive Fault where
deriving DecidableEq, Repr

/-- Reasons of the model to stop. -/
inductive Refusal where
  /-- Raised by an arm of `exec` whose instruction has no meaning yet; safe. -/
  | notModelled (mnemonic : String)
deriving DecidableEq, Repr

/-- What a meaning answers. -/
abbrev Result := Host.Outcome State Fault Refusal

/-- Table words all 0: the value named for the words R35 leaves unspecified (log 3). -/
def Tables.zero : Tables :=
  { p := Bank.tabulate 18 fun _ => 0
    s := Bank.tabulate 4 fun _ => Bank.tabulate 256 fun _ => 0 }

/-- The reset state of 10 R35 for an instance with parameters `c`, its table words being `t`. -/
def State.resetWith (c : Config) (t : Tables) : State :=
  { cfg := c, tab := t, tstate := .uninit, cost := 0, slen := 0, salt := [], plen := 0, pw := [],
    dlen := 0, d := [], olen := 0, out := [], err := false, errcode := 0,
    freeNext := 0, input := [], responses := [] }

/-- The machine right after reset (10 R35), with the default parameters (log 2). -/
def State.reset : State := State.resetWith Config.default Tables.zero

end Sys2Proof.Machine
end

