-- ==== Sys2Proof/Machine/Flags.lean ====
section
/-!
DEFINITION. The error codes (spec/60_exceptions.md R220), the bits of TSTATE, OVALID and the status
word (spec/10_state.md R28, R29). These are all the flags the machine has (R30).
-/

namespace Sys2Proof.Machine

/-- The code of an error kind (60 R220). -/
def ErrKind.code : ErrKind → BitVec 4
  | .invalidCost => 1
  | .invalidSaltLength => 2
  | .emptyPassword => 3
  | .allocationFailure => 4
  | .illegalCommand => 5
  | .badIndex => 6
  | .badLength => 7
  | .tablesState => 8

/-- The two bits of `TSTATE` (10 R28). -/
def TState.bits : TState → BitVec 2
  | .uninit => 0
  | .seeded => 1
  | .mixed => 2
  | .final => 3

/-- `OVALID`: 1 exactly when `OLEN = OUT_LEN` (10 R29). -/
def State.ovalid (s : State) : Bool := s.olen.toNat == s.cfg.outLen

/-- `STATUS` (10 R29): `[31:24]` 0, `[23:16]` SLEN, `[15:8]` COST, `[7]` OVALID, `[6:5]` TSTATE,
`[4:1]` ERRCODE, `[0]` ERR. -/
def State.status (s : State) : Word :=
  0#8 ++ s.slen ++ s.cost ++ BitVec.ofBool s.ovalid ++ s.tstate.bits ++ s.errcode ++
    BitVec.ofBool s.err

end Sys2Proof.Machine
end

