-- ==== Sys2Proof/Machine/Ops.lean ====
section
/-!
DEFINITION. The operations shared by the commands: access to the byte spaces (spec/00_scope.md R16,
spec/20_memory.md), the response (spec/30_encoding.md R97), taking an error and returning from it
(spec/60_exceptions.md R222, R225), input validation (R221), demotion of the table-state tag
(spec/10_state.md R28), the unspecified table words (R35), reset (spec/70_reset_and_hazards.md R250,
R255), an illegal command (30 R94, R95), and taking an event off the port.
-/

namespace Sys2Proof.Machine

/-! ## Byte spaces -/

/-- Byte `i` of a space. -/
def Memory.read : Memory → Nat → Byte
  | [], _ => Memory.unlisted
  | (k, v) :: m, i => if k = i then v else Memory.read m i

/-- The space with byte `i` written, in canonical form: writing the unlisted value removes the
entry. -/
def Memory.write : Memory → Nat → Byte → Memory
  | [], i, b => if b = Memory.unlisted then [] else [(i, b)]
  | (k, v) :: m, i, b =>
    if i < k then (if b = Memory.unlisted then (k, v) :: m else (i, b) :: (k, v) :: m)
    else if i = k then (if b = Memory.unlisted then m else (i, b) :: m)
    else (k, v) :: Memory.write m i b

/-- `MemRead(space, i, n)` (00 R16). -/
def Memory.readN (m : Memory) (i n : Nat) : List Byte := (List.range n).map fun k => m.read (i + k)

/-- `MemWrite(space, i, n, v)` with `n` the length of `v` (00 R16), lowest index first. -/
def Memory.writeN : Memory → Nat → List Byte → Memory
  | m, _, [] => m
  | m, i, b :: bs => Memory.writeN (m.write i b) (i + 1) bs

/-! ## Response -/

/-- `respond v`: the one response word of a command (30 R97). -/
def State.respond (v : Word) (s : State) : State := { s with responses := s.responses ++ [v] }

/-- The response of a command that is not a read: `STATUS` after the command (30 R97). -/
def State.respondStatus (s : State) : State := s.respond s.status

/-- A command that completes and responds `STATUS`. -/
def accept (s : State) : Result := .next s.respondStatus

/-- A read that completes and responds the value read, zero-extended (30 R97). -/
def acceptRead (v : Word) (s : State) : Result := .next (s.respond v)

/-! ## Taking an error and returning from it -/

/-- `Fail(code)`, the error entry: the first error sticks (60 R222). -/
def State.fail (k : ErrKind) (s : State) : State :=
  if s.err then s else { s with err := true, errcode := k.code }

/-- The return: the error record is cleared, nothing is restored (60 R225). -/
def State.clearError (s : State) : State := { s with err := false, errcode := 0 }

/-- `raise` in a command that responds `STATUS` (00 R16, 30 R97). -/
def reject (k : ErrKind) (s : State) : Result := .next (s.fail k).respondStatus

/-- `raise` in a read command: it responds 0 (30 R97, 20 R68). -/
def rejectRead (k : ErrKind) (s : State) : Result := .next ((s.fail k).respond 0)

/-! ## Input validation -/

/-- The inputs a command uses, for `Validate` (60 R221). -/
structure Uses where
  cost : Bool
  salt : Bool
  pw : Bool
deriving DecidableEq, Repr

/-- `COST_MIN <= COST <= COST_MAX` (10 R25). -/
def State.costValid (s : State) : Bool :=
  decide (s.cfg.costMin ≤ s.cost.toNat) && decide (s.cost.toNat ≤ s.cfg.costMax)

/-- `Validate(uses)`: the first error in the order cost, salt, password (60 R221). -/
def State.validate (u : Uses) (s : State) : Option ErrKind :=
  if u.cost && !s.costValid then some .invalidCost
  else if u.salt && decide (s.slen.toNat ≠ 16) then some .invalidSaltLength
  else if u.pw && decide (s.plen.toNat = 0) then some .emptyPassword
  else none

/-! ## Table-state tag and table words -/

/-- Demotion: `if TSTATE = FINAL then TSTATE <- MIXED` (10 R28). -/
def State.demote (s : State) : State :=
  if s.tstate = .final then { s with tstate := .mixed } else s

/-- The unspecified table words of the `n`-th draw (10 R35, 44 R191): free values (log 4). -/
def Tables.free (n : Nat) : Tables :=
  { p := Bank.tabulate 18 fun i => Config.freeTableWord n i
    s := Bank.tabulate 4 fun b => Bank.tabulate 256 fun j =>
      Config.freeTableWord n (18 + 256 * b + j) }

/-! ## Reset -/

/-- Reset (70 R250, R255): the reset state of 10 R35, whatever the instance was doing; the table words
become unspecified. The parameters are constants; the port's lists are the host's (log 7). -/
def State.takeReset (s : State) : State :=
  { State.resetWith s.cfg (Tables.free s.freeNext) with
    freeNext := s.freeNext + 1, input := s.input, responses := s.responses }

/-! ## Illegal commands and the port -/

/-- A word that is no command: `Fail(IllegalCommand)`, no other change; the response is 0 for an
illegal form of a read other than RDSTAT, else `STATUS` (30 R94, R95, 44 R206). -/
def illegalCommand (w : Word) (s : State) : Result :=
  if readOpcode (Fields.ofWord w).op then rejectRead .illegalCommand s
  else reject .illegalCommand s

/-- The next event at the port and the state with it taken; none when the host offers nothing. -/
def State.takeEvent (s : State) : Option (HostEvent × State) :=
  match s.input with
  | [] => none
  | e :: rest => some (e, { s with input := rest })

/-- The state in which the host offers `w` as its next command word (log 8). -/
def State.offer (w : Word) (s : State) : State := { s with input := .command w :: s.input }

end Sys2Proof.Machine
end

