-- ==== Sys2Proof/Machine/Operands.lean ====
section
/-!
DEFINITION. The operand forms (spec/30_encoding.md R92, R101): the key and salt sources of XKEY, the
block index of ENCBLK, the S-box index of RDS, the selector of RDLEN.
-/

namespace Sys2Proof.Machine

/-- `PW[0..PLEN-1]` (10 R27). -/
def State.passwordBytes (s : State) : List Byte := s.pw.readN 0 s.plen.toNat

/-- `SALT[0..15]` (10 R26). -/
def State.saltBytes (s : State) : List Byte := s.salt.readN 0 16

/-- `ZERO16`, the sequence of 16 zero bytes (42 R157). -/
def zero16 : List Byte := List.replicate 16 0

/-- The key selected by `KSEL` (R101, 42 R159). -/
def State.keyBytes (s : State) : KeySource → List Byte
  | .password => s.passwordBytes
  | .salt => s.saltBytes

/-- The key length selected by `KSEL`: `PLEN`, or 16 (R101, 42 R159). -/
def State.keyLen (s : State) : KeySource → Nat
  | .password => s.plen.toNat
  | .salt => 16

/-- The salt selected by `SSEL` (R101, 42 R159). -/
def State.mixSalt (s : State) : SaltSource → List Byte
  | .zero => zero16
  | .real => s.saltBytes

/-- Block `a` is wholly inside the declared length: `8*a + 8 <= DLEN` in naturals (41 R137). -/
def State.blockInside (s : State) (a : Half) : Bool := decide (8 * a.toNat + 8 ≤ s.dlen.toNat)

/-- `S[a div 256][a mod 256]` (44 R203, 20 R60). -/
def Tables.sAt (t : Tables) (a : Nat) (h : a < 1024) : Word :=
  (t.s.get ⟨a / 256, by omega⟩).get ⟨a % 256, by omega⟩

/-- The length register RDLEN selects; none for a selector above 4 (44 R201). -/
def State.lengthRegister (s : State) (a : Half) : Option Word :=
  match a.toNat with
  | 0 => some (s.plen.setWidth 32)
  | 1 => some (s.dlen.setWidth 32)
  | 2 => some (s.olen.setWidth 32)
  | 3 => some (s.slen.setWidth 32)
  | 4 => some (s.cost.setWidth 32)
  | _ => none

end Sys2Proof.Machine
end

