-- ==== Sys2Proof/Machine/Cipher.lean ====
section
/-!
DEFINITION. The cipher (spec/41_blowfish_cipher.md): F, round, EncryptBlock, EncD, EncryptBuffer, and
the meanings of ENCBLK and ENCBUF. The round is the document's literal step list, not the textbook one
(spec/90_conflicts.md C1).
-/

namespace Sys2Proof.Machine

/-- `S[b][q]` for a quarter `q` (R130). -/
def Tables.sbox (t : Tables) (b : Fin 4) (q : Byte) : Word := (t.s.get b).get q.toFin

/-- `F(x) = ((S[0][q0] +32 S[1][q1]) xor S[2][q2]) +32 S[3][q3]`, most significant quarter first
(R130). -/
def F (t : Tables) (x : Word) : Word :=
  ((t.sbox 0 (x.extractLsb' 24 8) + t.sbox 1 (x.extractLsb' 16 8)) ^^^
    t.sbox 2 (x.extractLsb' 8 8)) + t.sbox 3 (x.extractLsb' 0 8)

/-- One round with index `i` (R131). -/
def feistelRound (t : Tables) (lr : Word × Word) (i : Fin 16) : Word × Word :=
  let l := lr.1 ^^^ t.p.get (i.castLE (by decide))
  let l := F t l
  let r := lr.2 ^^^ l
  (r, l)

/-- `EncryptBlock(L, R)` (R132): 16 rounds, undo the final swap, then `R xor P[17]`, `L xor P[16]`. -/
def encryptBlock (t : Tables) (lr : Word × Word) : Word × Word :=
  let lr := (List.finRange 16).foldl (feistelRound t) lr
  let lr := (lr.2, lr.1)
  let r := lr.2 ^^^ t.p.get 17
  let l := lr.1 ^^^ t.p.get 16
  (l, r)

/-- `EncryptBlock64(v)` (R133). -/
def encryptBlock64 (t : Tables) (v : Block) : Block := joinUint64 (encryptBlock t (splitUint64 v))

/-- `EncD(j)`: block `j` of the buffer encrypted in place (R135). -/
def encD (t : Tables) (d : Memory) (j : Nat) : Memory :=
  let l := bytesToWord (d.readN (8 * j) 4)
  let r := bytesToWord (d.readN (8 * j + 4) 4)
  d.writeN (8 * j) (uintToBytes (joinUint64 (encryptBlock t (l, r))))

/-- `EncryptBuffer()` (R136): zero the tail, encrypt the chunks in index order; answers the buffer and
the new `DLEN`. -/
def encryptBuffer (t : Tables) (d : Memory) (dlen : Nat) : Memory × Nat :=
  let nb := (dlen + 7) / 8
  let d := d.writeN dlen (List.replicate (8 * nb - dlen) 0)
  let d := (List.range nb).foldl (encD t) d
  (d, 8 * nb)

/-- ENCBLK `a` (R137). -/
def execEncblk (a : Half) (s : State) : Result :=
  if s.tstate = .uninit then reject .tablesState s
  else if s.blockInside a then accept { s with d := encD s.tab s.d a.toNat }
  else reject .badIndex s

/-- ENCBUF (R138). -/
def execEncbuf (s : State) : Result :=
  if s.tstate = .uninit then reject .tablesState s
  else
    let b := encryptBuffer s.tab s.d s.dlen.toNat
    accept { s with d := b.1, dlen := BitVec.ofNat 16 b.2 }

end Sys2Proof.Machine
end

