-- ==== Sys2Proof/Machine/KeySchedule.lean ====
section
/-!
DEFINITION. The EksBlowfish key schedule (spec/42_key_schedule.md) and the meanings of INIT, XKEY and
GENKEYS. The only writer of the tables (spec/10_state.md R21, R22).
-/

namespace Sys2Proof.Machine

/-- `InitTables()`: `P[n] <- SEED[n]`, `S[b][j] <- SEED[18 + 256*b + j]` (R150). -/
def initTables (c : Config) : Tables :=
  { p := Bank.tabulate 18 fun n => c.seed.get (n.castLE (by decide))
    s := Bank.tabulate 4 fun b => Bank.tabulate 256 fun j =>
      c.seed.get ⟨18 + 256 * b + j, by omega⟩ }

/-- `keyWord(key, klen, n)`: four bytes, each at its own offset modulo `klen` (R151). Used with
`klen >= 1` only (log 18). -/
def keyWord (key : List Byte) (klen n : Nat) : Word :=
  bytesToWord ((List.range 4).map fun k => key.getD ((4 * n + k) % klen) 0)

/-- Step 1 of `expandKey`: every `P[n]` xor its key word (R152). -/
def keyXor (t : Tables) (key : List Byte) (klen : Nat) : Tables :=
  { t with p := Bank.tabulate 18 fun n => t.p.get n ^^^ keyWord key klen n }

/-- The running values of a pass: the tables, the running block `B`, the counter `k` (R153). -/
structure Pass where
  tab : Tables
  blk : Block
  k : Nat
deriving DecidableEq, Repr

/-- `H[0]`, `H[1]`: the salt as two 8-byte halves (R153). -/
def saltHalf (salt16 : List Byte) (i : Nat) : Block :=
  bytesToBlock ((salt16.drop (8 * i)).take 8)

/-- `Mix()`: xor the block with `H[k mod 2]`, encrypt with the current tables, keep the result
(R153). Answers the pass and the two halves. -/
def mix (salt16 : List Byte) (x : Pass) : Pass × Word × Word :=
  let b := x.blk ^^^ saltHalf salt16 (x.k % 2)
  let lr := encryptBlock x.tab (splitUint64 b)
  ({ x with blk := joinUint64 lr, k := x.k + 1 }, lr.1, lr.2)

/-- Iteration `m` of step 2: `P[2m] <- L`, `P[2m+1] <- R` (R154). -/
def fillPStep (salt16 : List Byte) (x : Pass) (m : Fin 9) : Pass :=
  let y := mix salt16 x
  let p := (y.1.tab.p.set ⟨2 * m, by omega⟩ y.2.1).set ⟨2 * m + 1, by omega⟩ y.2.2
  { y.1 with tab := { y.1.tab with p := p } }

/-- Step 2 of `expandKey` (R154). -/
def fillP (salt16 : List Byte) (x : Pass) : Pass :=
  (List.finRange 9).foldl (fillPStep salt16) x

/-- Iteration `j` of step 3 in box `b`: `S[b][2j] <- L`, `S[b][2j+1] <- R` (R155). -/
def fillSStep (salt16 : List Byte) (b : Fin 4) (x : Pass) (j : Fin 128) : Pass :=
  let y := mix salt16 x
  let box := ((y.1.tab.s.get b).set ⟨2 * j, by omega⟩ y.2.1).set ⟨2 * j + 1, by omega⟩ y.2.2
  { y.1 with tab := { y.1.tab with s := y.1.tab.s.set b box } }

/-- One box of step 3 (R155). -/
def fillBox (salt16 : List Byte) (x : Pass) (b : Fin 4) : Pass :=
  (List.finRange 128).foldl (fillSStep salt16 b) x

/-- Step 3 of `expandKey`: boxes 0 to 3 in order (R155). -/
def fillS (salt16 : List Byte) (x : Pass) : Pass := (List.finRange 4).foldl (fillBox salt16) x

/-- One whole pass with its final running values: set-up and step 1, then steps 2 and 3 (R156). -/
def expandPass (t : Tables) (key : List Byte) (klen : Nat) (salt16 : List Byte) : Pass :=
  fillS salt16 (fillP salt16 { tab := keyXor t key klen, blk := 0, k := 0 })

/-- `ExpandKey(key, klen, salt16)`: the tables after one pass (R156). -/
def expandKey (t : Tables) (key : List Byte) (klen : Nat) (salt16 : List Byte) : Tables :=
  (expandPass t key klen salt16).tab

/-- The body of the stretching loop: pass A, then pass B (R157). -/
def stretchStep (pw : List Byte) (plen : Nat) (salt : List Byte) (t : Tables) : Tables :=
  expandKey (expandKey t pw plen salt) salt 16 salt

/-- `f` applied `n` times. -/
def repeatN {α : Type} (f : α → α) : Nat → α → α
  | 0, x => x
  | n + 1, x => repeatN f n (f x)

/-- `GenerateKeys()`: one pass with the zero salt, then `2^COST` times the loop body (R157, R161). -/
def generateKeys (t : Tables) (pw : List Byte) (plen : Nat) (salt : List Byte) (cost : Nat) : Tables :=
  repeatN (stretchStep pw plen salt) (2 ^ cost) (expandKey t pw plen zero16)

/-- `GenerateKeys()` from the tables `t` with the loaded inputs (R157). -/
def State.stretch (s : State) (t : Tables) : Tables :=
  generateKeys t s.passwordBytes s.plen.toNat s.saltBytes s.cost.toNat

/-- INIT (R158). -/
def execInit (s : State) : Result := accept { s with tab := initTables s.cfg, tstate := .seeded }

/-- XKEY (R159). -/
def execXkey (ksel : KeySource) (ssel : SaltSource) (s : State) : Result :=
  if s.tstate = .uninit then reject .tablesState s
  else if (ksel = .salt ∨ ssel = .real) ∧ s.slen.toNat ≠ 16 then reject .invalidSaltLength s
  else if ksel = .password ∧ s.plen.toNat = 0 then reject .emptyPassword s
  else
    accept { s with
      tab := expandKey s.tab (s.keyBytes ksel) (s.keyLen ksel) (s.mixSalt ssel)
      tstate := .mixed }

/-- GENKEYS (R160). -/
def execGenkeys (s : State) : Result :=
  if s.tstate ≠ .seeded then reject .tablesState s
  else
    match s.validate { cost := true, salt := true, pw := true } with
    | some e => reject e s
    | none => accept { s with tab := s.stretch s.tab, tstate := .final }

end Sys2Proof.Machine
end

