-- ==== Sys2Proof/Machine/Encoder.lean ====
section
/-!
DEFINITION. The bcrypt encoder (spec/43_bcrypt_encoder.md) and the meanings of ENCODE and HASH.
-/

namespace Sys2Proof.Machine

/-- `Reencrypt()`: `D[0..23] <- MAGIC`, `DLEN <- 24`, then 64 times `EncryptBuffer()` (R170); answers
the buffer and `DLEN`. -/
def reencrypt (c : Config) (t : Tables) (d : Memory) : Memory × Nat :=
  repeatN (fun x : Memory × Nat => encryptBuffer t x.1 x.2) 64 (d.writeN 0 c.magic.toList, 24)

/-- The character of a 6-bit group (R171). -/
def encodedChar (c : Config) (v : BitVec 6) : Byte := c.alphabet.get v.toFin

/-- `B64(s)`: groups of three bytes to four characters, the last group zero-filled, no padding
character (R171). -/
def b64 (c : Config) : List Byte → List Byte
  | [] => []
  | [b0] =>
    [encodedChar c (b0.extractLsb' 2 6), encodedChar c (b0.extractLsb' 0 2 ++ 0#4)]
  | [b0, b1] =>
    [encodedChar c (b0.extractLsb' 2 6),
     encodedChar c (b0.extractLsb' 0 2 ++ b1.extractLsb' 4 4),
     encodedChar c (b1.extractLsb' 0 4 ++ 0#2)]
  | b0 :: b1 :: b2 :: rest =>
    encodedChar c (b0.extractLsb' 2 6) ::
    encodedChar c (b0.extractLsb' 0 2 ++ b1.extractLsb' 4 4) ::
    encodedChar c (b1.extractLsb' 0 4 ++ b2.extractLsb' 6 2) ::
    encodedChar c (b2.extractLsb' 0 6) ::
    b64 c rest

/-- `saltField`: the first `SALT_W` characters (R173). -/
def saltField (c : Config) (salt : List Byte) : List Byte := (b64 c salt).take c.saltW

/-- `hashField`: the first `HASH_W` characters of the encoding of `D[0..23]`, whose bytes are the three
64-bit values of R177 written back (R173, R177, 40 R123). -/
def hashField (c : Config) (d : Memory) : List Byte := (b64 c (d.readN 0 24)).take c.hashW

/-- `costField`: two decimal digits (R172). -/
def costField (cost : Nat) : List Byte :=
  [BitVec.ofNat 8 (0x30 + cost / 10), BitVec.ofNat 8 (0x30 + cost % 10)]

/-- The text of `Format()`: tag, cost, separator, salt field, hash field (R174). -/
def hashText (c : Config) (cost : Nat) (salt : List Byte) (d : Memory) : List Byte :=
  [0x24, 0x32, 0x61, 0x24] ++ costField cost ++ [0x24] ++ saltField c salt ++ hashField c d

/-- `Format()`: writes `OUT` and `OLEN` (R174). -/
def State.format (s : State) : State :=
  { s with
    out := s.out.writeN 0 (hashText s.cfg s.cost.toNat s.saltBytes s.d)
    olen := BitVec.ofNat 8 s.cfg.outLen }

/-- `Reencrypt(); Format()` under the tables of the state (R175, R176). -/
def State.encodeResult (s : State) : State :=
  let b := reencrypt s.cfg s.tab s.d
  ({ s with d := b.1, dlen := BitVec.ofNat 16 b.2 } : State).format

/-- `OLEN <- 0`, which a failing ENCODE or HASH does before it raises (R175, R176). -/
def State.dropResult (s : State) : State := { s with olen := 0 }

/-- ENCODE (R175). -/
def execEncode (s : State) : Result :=
  if s.tstate ≠ .final then reject .tablesState s.dropResult
  else
    match s.validate { cost := true, salt := true, pw := false } with
    | some e => reject e s.dropResult
    | none => accept s.encodeResult

/-- HASH (R176). -/
def execHash (s : State) : Result :=
  match s.validate { cost := true, salt := true, pw := true } with
  | some e => reject e s.dropResult
  | none =>
    let s := { s with tab := initTables s.cfg, tstate := .seeded }
    let s := { s with tab := s.stretch s.tab, tstate := .final }
    accept s.encodeResult

end Sys2Proof.Machine
end

