-- ==== Sys2Proof/Machine/HostCommands.lean ====
section
/-!
DEFINITION. The host commands (spec/44_host_commands.md): housekeeping, loads and reads.
-/

namespace Sys2Proof.Machine

/-- NOP (R190). -/
def execNop (s : State) : Result := accept s

/-- CLR (R191): every element to its reset value but the error record; the table words become
unspecified, as after reset. -/
def execClr (s : State) : Result :=
  accept { s with
    cost := 0, slen := 0, plen := 0, dlen := 0, olen := 0
    salt := [], pw := [], d := [], out := []
    tab := Tables.free s.freeNext, freeNext := s.freeNext + 1
    tstate := .uninit }

/-- CLRERR (R192). -/
def execClrerr (s : State) : Result := accept s.clearError

/-- SETCOST (R193). -/
def execSetcost (b : Byte) (s : State) : Result := accept ({ s with cost := b } : State).demote

/-- SETSLEN (R194). -/
def execSetslen (b : Byte) (s : State) : Result := accept ({ s with slen := b } : State).demote

/-- SETPLEN (R195). -/
def execSetplen (a : Half) (s : State) : Result :=
  if a.toNat > s.cfg.pwMax then reject .badLength s
  else accept ({ s with plen := a } : State).demote

/-- SETDLEN (R196). -/
def execSetdlen (a : Half) (s : State) : Result :=
  if a.toNat > s.cfg.dMax then reject .badLength s else accept { s with dlen := a }

/-- LDSALT (R197). -/
def execLdsalt (a : Half) (b : Byte) (s : State) : Result :=
  if a.toNat ≥ 16 then reject .badIndex s
  else accept ({ s with salt := s.salt.write a.toNat b } : State).demote

/-- LDPW (R198): the index is checked against the capacity. -/
def execLdpw (a : Half) (b : Byte) (s : State) : Result :=
  if a.toNat ≥ s.cfg.pwMax then reject .badIndex s
  else accept ({ s with pw := s.pw.write a.toNat b } : State).demote

/-- LDD (R199): the index is checked against the capacity. -/
def execLdd (a : Half) (b : Byte) (s : State) : Result :=
  if a.toNat ≥ s.cfg.dMax then reject .badIndex s
  else accept { s with d := s.d.write a.toNat b }

/-- RDSTAT (R200). -/
def execRdstat (s : State) : Result := accept s

/-- RDLEN (R201). -/
def execRdlen (a : Half) (s : State) : Result :=
  match s.lengthRegister a with
  | some v => acceptRead v s
  | none => rejectRead .badIndex s

/-- RDP (R202). -/
def execRdp (a : Half) (s : State) : Result :=
  if s.tstate = .uninit then rejectRead .tablesState s
  else if h : a.toNat < 18 then acceptRead (s.tab.p.get ⟨a.toNat, h⟩) s
  else rejectRead .badIndex s

/-- RDS (R203). -/
def execRds (a : Half) (s : State) : Result :=
  if s.tstate = .uninit then rejectRead .tablesState s
  else if h : a.toNat < 1024 then acceptRead (s.tab.sAt a.toNat h) s
  else rejectRead .badIndex s

/-- RDD (R204): the index is checked against the capacity. -/
def execRdd (a : Half) (s : State) : Result :=
  if a.toNat ≥ s.cfg.dMax then rejectRead .badIndex s
  else acceptRead ((s.d.read a.toNat).setWidth 32) s

/-- RDOUT (R205): the index is checked against `OLEN`. -/
def execRdout (a : Half) (s : State) : Result :=
  if a.toNat ≥ s.olen.toNat then rejectRead .badIndex s
  else acceptRead ((s.out.read a.toNat).setWidth 32) s

end Sys2Proof.Machine
end

