-- ==== Sys2Proof/Machine/Dispatch.lean ====
section
/-!
DEFINITION. One arm per command: the meaning of the 23 commands (spec/30_encoding.md R93).
-/

namespace Sys2Proof.Machine

def exec (i : Instr) (s : State) : Host.Outcome State Fault Refusal :=
  match i with
  | .nop => Sys2Proof.Machine.execNop s
  | .clr => Sys2Proof.Machine.execClr s
  | .clrerr => Sys2Proof.Machine.execClrerr s
  | .setcost b => Sys2Proof.Machine.execSetcost b s
  | .setslen b => Sys2Proof.Machine.execSetslen b s
  | .setplen a => Sys2Proof.Machine.execSetplen a s
  | .setdlen a => Sys2Proof.Machine.execSetdlen a s
  | .ldsalt a b => Sys2Proof.Machine.execLdsalt a b s
  | .ldpw a b => Sys2Proof.Machine.execLdpw a b s
  | .ldd a b => Sys2Proof.Machine.execLdd a b s
  | .init => Sys2Proof.Machine.execInit s
  | .xkey ksel ssel => Sys2Proof.Machine.execXkey ksel ssel s
  | .genkeys => Sys2Proof.Machine.execGenkeys s
  | .encblk a => Sys2Proof.Machine.execEncblk a s
  | .encbuf => Sys2Proof.Machine.execEncbuf s
  | .encode => Sys2Proof.Machine.execEncode s
  | .hash => Sys2Proof.Machine.execHash s
  | .rdstat => Sys2Proof.Machine.execRdstat s
  | .rdlen a => Sys2Proof.Machine.execRdlen a s
  | .rdp a => Sys2Proof.Machine.execRdp a s
  | .rds a => Sys2Proof.Machine.execRds a s
  | .rdd a => Sys2Proof.Machine.execRdd a s
  | .rdout a => Sys2Proof.Machine.execRdout a s

end Sys2Proof.Machine
end

