-- ==== Sys2Proof/Machine/Step.lean ====
section
/-!
DEFINITION. One step: the engine takes the next event at the port (spec/00_scope.md R17, R18;
spec/44_host_commands.md R206; spec/70_reset_and_hazards.md R250, R255).
-/

namespace Sys2Proof.Machine

/-- A command word: decode, then execute or record `IllegalCommand` (44 R206). -/
def runWord (w : Word) (s : State) : Host.Outcome State Fault Refusal :=
  match decode w with
  | .ok i => exec i s
  | .error _ => illegalCommand w s

/-- One step. With nothing at the port the engine holds its state (60 R230, log 6). -/
def step (s : State) : Host.Outcome State Fault Refusal :=
  match s.takeEvent with
  | none => .next s
  | some (.command w, s') => runWord w s'
  | some (.reset, s') => .next s'.takeReset
  | some (.cutShort _, s') => .next s'.takeReset

/-- The host offers the table's word as its next command, so that the very next step runs it (log 8). -/
def State.withFetchWord (s : State) (nbits w : Nat) : State := s.offer (tableWord nbits w)

end Sys2Proof.Machine
end

