-- ==== Sys2Proof/Machine/Programs.lean ====
section
/-!
DEFINITION. Runs of commands (spec/00_scope.md R18) and the pseudo-instructions, each a fixed expansion
into commands (spec/30_encoding.md R99). Notation of the spec's listings; no state.
-/

namespace Sys2Proof.Machine

/-- The commands applied one after another (R18). -/
def runCommands : List Instr → State → Host.Outcome State Fault Refusal
  | [], s => .next s
  | i :: is, s =>
    match exec i s with
    | .next t => runCommands is t
    | .fault r => .fault r
    | .refused r => .refused r

/-- `k i b` for the bytes `b` of the list, `i` counting from `i0`. -/
def indexed (k : Half → Byte → Instr) : Nat → List Byte → List Instr
  | _, [] => []
  | i, b :: bs => k (BitVec.ofNat 16 i) b :: indexed k (i + 1) bs

/-- `LOADSALT b0, .., b(n-1)`, n <= 16 (R99). -/
def loadSalt (bs : List Byte) : List Instr :=
  .setslen (BitVec.ofNat 8 bs.length) :: indexed .ldsalt 0 bs

/-- `LOADPW b0, .., b(n-1)`, n <= `PW_MAX` (R99). -/
def loadPw (bs : List Byte) : List Instr :=
  .setplen (BitVec.ofNat 16 bs.length) :: indexed .ldpw 0 bs

/-- `LOADD b0, .., b(n-1)`, n <= `D_MAX` (R99). -/
def loadD (bs : List Byte) : List Instr :=
  .setdlen (BitVec.ofNat 16 bs.length) :: indexed .ldd 0 bs

/-- `LOADARGS cost, salt, password` (R99). -/
def loadArgs (cost : Byte) (salt pw : List Byte) : List Instr :=
  .setcost cost :: (loadSalt salt ++ loadPw pw)

/-- `HASHCALL cost, salt, password` (R99): the document's `hash(cost, salt, password)`. -/
def hashCall (cost : Byte) (salt pw : List Byte) : List Instr := loadArgs cost salt pw ++ [.hash]

/-- `READOUT` (R99). -/
def readOut (c : Config) : List Instr :=
  (List.range c.outLen).map fun i => .rdout (BitVec.ofNat 16 i)

/-- `READD n` (R99). -/
def readD (n : Nat) : List Instr := (List.range n).map fun i => .rdd (BitVec.ofNat 16 i)

/-- The passes of the stretching loop, one XKEY each: `XKEY 2`, `XKEY 3`, `n` times (42 R159). -/
def stagedLoop : Nat → List Instr
  | 0 => []
  | n + 1 => .xkey .password .real :: .xkey .salt .real :: stagedLoop n

/-- `INIT`, `XKEY 0`, then `2^COST` times (`XKEY 2`, `XKEY 3`) (42 R159). -/
def stagedSchedule (cost : Nat) : List Instr :=
  .init :: .xkey .password .zero :: stagedLoop (2 ^ cost)

end Sys2Proof.Machine
end

