-- ==== Sys2Proof/Machine/System.lean ====
section
/-!
DEFINITION. Several instances side by side (spec/60_exceptions.md R231, spec/20_memory.md R76): each has
its own whole state and its own port; a step of the system is a step of one of them (log 13).
-/

namespace Sys2Proof.Machine

/-- A system of `NENG` instances (R231). -/
structure System where
  engines : List State
deriving DecidableEq, Repr

/-- Every instance starts from its own reset (R231). -/
def System.reset (configs : List Config) : System :=
  { engines := configs.map fun c => State.resetWith c Tables.zero }

/-- Instance `n` takes one step; there is nothing to do when there is no instance `n`. -/
def System.stepEngine (n : Nat) (sys : System) : Host.Outcome System Fault Refusal :=
  match sys.engines[n]? with
  | none => .next sys
  | some s =>
    match step s with
    | .next t => .next { engines := sys.engines.set n t }
    | .fault r => .fault r
    | .refused r => .refused r

end Sys2Proof.Machine
end

