-- ==== Sys2Proof/Safety.lean ====
section
/-!
DEFINITION. What counts as a legal state, and the terms the statements use: the invariant of one instance
(spec/10_state.md R20, R26 to R31, spec/60_exceptions.md R220, R229, spec/43_bcrypt_encoder.md R174), a
command's answer, and the spec's values read off the state by plain indices.
-/

namespace Sys2Proof.Machine

/-- `ERRCODE` is 0 exactly when `ERR` is 0 (10 R29), and never holds the code 4 of
`AllocationFailure` or a reserved code 9 to 15 (60 R220, R229). -/
def State.RecordLegal (s : State) : Prop :=
  (s.err = false ↔ s.errcode = 0) ∧ s.errcode.toNat ∈ [0, 1, 2, 3, 5, 6, 7, 8]

/-- The byte spaces are in canonical form and inside their capacities (20 R60). -/
structure State.SpacesLegal (s : State) : Prop where
  salt_wf : s.salt.wf
  salt_within : s.salt.within 16
  pw_wf : s.pw.wf
  pw_within : s.pw.within s.cfg.pwMax
  d_wf : s.d.wf
  d_within : s.d.within s.cfg.dMax
  out_wf : s.out.wf
  out_within : s.out.within s.cfg.outLen

/-- The length registers stay in their ranges (10 R20, R31). -/
structure State.LengthsLegal (s : State) : Prop where
  plen_le : s.plen.toNat ≤ s.cfg.pwMax
  dlen_le : s.dlen.toNat ≤ s.cfg.dMax
  olen_eq : s.olen = 0 ∨ s.olen.toNat = s.cfg.outLen

/-- The inputs satisfy `Validate(cost, salt, pw)` (60 R221). -/
structure State.InputsValid (s : State) : Prop where
  cost_ge : s.cfg.costMin ≤ s.cost.toNat
  cost_le : s.cost.toNat ≤ s.cfg.costMax
  slen_eq : s.slen.toNat = 16
  plen_pos : 1 ≤ s.plen.toNat

/-- What `TSTATE` says of the tables (10 R28): SEEDED, they hold exactly `SEED`; FINAL, they are the
finished tables for the present, valid `COST`, `SALT`, `PW`, `PLEN`. -/
structure State.TagTrue (s : State) : Prop where
  seeded : s.tstate = .seeded → s.tab = initTables s.cfg
  final : s.tstate = .final → s.InputsValid ∧ s.tab = s.stretch (initTables s.cfg)

/-- The grammar of the hash string (43 R174): tag, two digits, separator, characters of the alphabet. -/
structure OutGrammar (c : Config) (out : Memory) : Prop where
  tag : out.readN 0 4 = [0x24, 0x32, 0x61, 0x24]
  digits : ∀ i, 4 ≤ i → i < 6 → 0x30 ≤ (out.read i).toNat ∧ (out.read i).toNat ≤ 0x39
  separator : out.read 6 = 0x24
  fields : ∀ i, 7 ≤ i → i < c.outLen → out.read i ∈ c.alphabet.toList

/-- The invariant of one instance. -/
structure State.Inv (s : State) : Prop where
  config : s.cfg.Wf
  record : s.RecordLegal
  spaces : s.SpacesLegal
  lengths : s.LengthsLegal
  tag : s.TagTrue
  result : s.olen ≠ 0 → OutGrammar s.cfg s.out

/-! ## Terms of the statements -/

/-- The state `u` with one more response word. -/
def State.answering (u : State) (r : Word) : State := { u with responses := u.responses ++ [r] }

/-- The state `u` with its own `STATUS` as one more response word (30 R97). -/
def State.answeringStatus (u : State) : State := u.answering u.status

/-- The error record after a failure with `code`: the first error sticks (60 R222). -/
def State.errored (s : State) (code : BitVec 4) : State :=
  { s with err := true, errcode := if s.err then s.errcode else code }

/-- The tag after a load of an input: FINAL is demoted to MIXED (10 R28). -/
def TState.demoted : TState → TState
  | .final => .mixed
  | .mixed => .mixed
  | .seeded => .seeded
  | .uninit => .uninit

/-- Table word `t` of the linear index of 10 R23; 0 from 1042 on, where there is no word. -/
def Tables.word (x : Tables) (t : Nat) : Word :=
  if h : t < 18 then x.p.get ⟨t, h⟩
  else if h' : t < 1042 then (x.s.get ⟨(t - 18) / 256, by omega⟩).get ⟨(t - 18) % 256, by omega⟩
  else 0

/-- The 64-bit value of eight bytes, the first most significant (20 R61, R62). -/
def octet (f : Nat → Byte) : Block := f 0 ++ f 1 ++ f 2 ++ f 3 ++ f 4 ++ f 5 ++ f 6 ++ f 7

/-- Block `j` of a buffer: bytes `8j .. 8j+7` (20 R64). -/
def Memory.blockAt (m : Memory) (j : Nat) : Block := octet fun k => m.read (8 * j + k)

/-- Block `j` of a buffer whose bytes from `len` on count as 0 (41 R136). -/
def Memory.paddedBlockAt (m : Memory) (len j : Nat) : Block :=
  octet fun k => if 8 * j + k < len then m.read (8 * j + k) else 0

/-- Block `j` of `MAGIC` (00 R10, 43 R170). -/
def magicBlock (c : Config) (j : Fin 3) : Block :=
  octet fun k => c.magic.toList.getD (8 * j + k) 0

/-- Bit `i` of a byte sequence, first byte first and most significant bit first; 0 past its end
(43 R171). -/
def bitAt (s : List Byte) (i : Nat) : Bool := (s.getD (i / 8) 0).getLsbD (7 - i % 8)

/-- The last response word. -/
def State.lastResponse (s : State) : Option Word := s.responses.getLast?

end Sys2Proof.Machine
end

