-- ==== Sys2Proof/Certificates/Slice0/Obligations.lean ====
section
/-!
DEFINITION. The statements for the provers. Each docstring names the rule of spec/ it formalises.
-/

open Sys2Proof Sys2Proof.Machine

/-! ## Encoding -/

/-- 30 R90, R93, R101: no bit of a command is dropped by its encoding. -/
def Obligations.DecodeOfEncodeIsTheCommand : Prop :=
  ∀ i : Instr, decode (encode i) = .ok i

/-- 30 R90, R93, R95: a word that decodes is the encoding of what it decodes to. -/
def Obligations.DecodedWordIsTheEncodingOfItsCommand : Prop :=
  ∀ (w : Word) (i : Instr), decode w = .ok i → encode i = w

/-- 30 R94, R95, R96: the words that decode are exactly those whose opcode is in the map and whose
must-be-zero fields are zero. -/
def Obligations.LegalWordsAreExactlyTheDecodableOnes : Prop :=
  ∀ w : Word, (∃ i, decode w = .ok i) ↔ (Fields.ofWord w).wf = true

/-- 30 R93, R98: words of the opcode map, one for each group and each operand form. -/
def Obligations.WordsOfTheOpcodeMapDecode : Prop :=
  decode 0x00000000 = .ok .nop ∧ decode 0x08000004 = .ok (.setcost 4) ∧
  decode 0x0C000370 = .ok (.ldsalt 3 0x70) ∧ decode 0x0A000C00 = .ok (.setplen 12) ∧
  decode 0x11000002 = .ok (.xkey .password .real) ∧ decode 0x13000000 = .ok (.encblk 0) ∧
  decode 0x16000000 = .ok .hash ∧ decode 0x23010000 = .ok (.rds 256)

/-! ## The step -/

/-- 44 R206, 00 R17: a step runs the command its word decodes to, with the word taken off the port. -/
def Obligations.StepRunsTheDecodedCommand : Prop :=
  ∀ (s : State) (w : Word) (rest : List HostEvent) (i : Instr),
    s.input = .command w :: rest → decode w = .ok i → step s = exec i { s with input := rest }

/-- The model's choice (log 8): the word `withFetchWord` offers is the next command, and `step` runs it
in the state as it was. -/
def Obligations.OfferedTableWordIsTheNextCommand : Prop :=
  ∀ (s : State) (w : Nat) (i : Instr), w < 2 ^ 32 → decodeTableWord 32 w = some i →
    step (s.withFetchWord 32 w) = exec i s

/-- 30 R94, R95, R97: an illegal word records `IllegalCommand` and changes nothing else; it responds
`STATUS`, or 0 when its opcode is one of the reads RDLEN to RDOUT. -/
def Obligations.IllegalWordRecordsCodeFive : Prop :=
  ∀ (s : State) (w : Word) (rest : List HostEvent),
    s.input = .command w :: rest → (Fields.ofWord w).wf = false →
    let u := ({ s with input := rest } : State).errored 5
    step s = .next (u.answering
      (if 0x21 ≤ (Fields.ofWord w).op.toNat ∧ (Fields.ofWord w).op.toNat ≤ 0x25 then 0 else u.status))

/-- 30 R97, 00 R18: every command word, legal or not, is answered by exactly one response word; it is
taken off the port and the parameters stay (10 R36). -/
def Obligations.EveryCommandWordGetsOneResponse : Prop :=
  ∀ (s : State) (w : Word) (rest : List HostEvent), s.input = .command w :: rest →
    ∃ t r, step s = .next t ∧ t.responses = s.responses ++ [r] ∧ t.input = rest ∧ t.cfg = s.cfg

/-- 00 R18, 60 R230: every step answers a next state, and a step with nothing at the port changes
nothing (log 6). -/
def Obligations.EveryStepAnswersANextState : Prop :=
  (∀ s : State, ∃ t, step s = .next t) ∧ ∀ s : State, s.input = [] → step s = .next s

/-- 30 R97, in part: a command other than RDLEN, RDP, RDS, RDD, RDOUT responds the status after it; one of
these five responds 0 when it records an error where none was recorded. The values these five read are
stated by their own statements. -/
def Obligations.NonReadsRespondStatusAndFailingReadsRespondZero : Prop :=
  ∀ (i : Instr) (s : State), ∃ t, exec i s = .next t ∧
    ((∀ a, i ≠ .rdlen a ∧ i ≠ .rdp a ∧ i ≠ .rds a ∧ i ≠ .rdd a ∧ i ≠ .rdout a) →
      t.responses = s.responses ++ [t.status]) ∧
    ((∃ a, i = .rdlen a ∨ i = .rdp a ∨ i = .rds a ∨ i = .rdd a ∨ i = .rdout a) →
      s.err = false → t.err = true → t.responses = s.responses ++ [0])

/-- 70 R250, R255, 10 R35: a reset event, also one that cuts a command short, puts every register to its
reset value whatever the state was, keeps the parameters, and gives no response. -/
def Obligations.ResetEventGivesTheResetState : Prop :=
  ∀ (s : State) (rest : List HostEvent) (w : Word),
    s.input = .reset :: rest ∨ s.input = .cutShort w :: rest →
    ∃ tab n, step s = .next
      { State.resetWith s.cfg tab with freeNext := n, input := rest, responses := s.responses }

/-- 10 R35: what reset leaves, for the values the rule gives; `STATUS = 0x00000000`. -/
def Obligations.ResetValues : Prop :=
  ∀ (c : Config) (tab : Tables), c.Wf →
    let s := State.resetWith c tab
    s.tstate = .uninit ∧ s.cost = 0 ∧ s.slen = 0 ∧ s.plen = 0 ∧ s.dlen = 0 ∧ s.olen = 0 ∧
    s.err = false ∧ s.errcode = 0 ∧
    (∀ i, s.salt.read i = 0 ∧ s.pw.read i = 0 ∧ s.d.read i = 0 ∧ s.out.read i = 0) ∧
    s.status = 0x00000000

/-! ## Status word and error record -/

/-- 10 R29: the layout of `STATUS`. -/
def Obligations.StatusWordLayout : Prop :=
  ∀ s : State,
    s.status.getLsbD 0 = s.err ∧
    s.status.extractLsb' 1 4 = s.errcode ∧
    (s.status.extractLsb' 5 2).toNat =
      (match s.tstate with | .uninit => 0 | .seeded => 1 | .mixed => 2 | .final => 3) ∧
    (s.status.getLsbD 7 = true ↔ s.olen.toNat = s.cfg.outLen) ∧
    s.status.extractLsb' 8 8 = s.cost ∧
    s.status.extractLsb' 16 8 = s.slen ∧
    s.status.extractLsb' 24 8 = 0

/-- 60 R225, R226: no command but CLRERR clears or changes a recorded error. -/
def Obligations.RecordedErrorStaysUntilClrerr : Prop :=
  ∀ (i : Instr) (s : State), i ≠ .clrerr → s.err = true →
    ∃ t, exec i s = .next t ∧ t.err = true ∧ t.errcode = s.errcode

/-- 44 R206, 60 R222, R224: a command that fails, from `ERR = 0`, changes the error record and nothing else
but the responses, except that a failing ENCODE or HASH also sets `OLEN` to 0. -/
def Obligations.FailingCommandChangesOnlyTheRecordAndEncoderOlen : Prop :=
  ∀ (i : Instr) (s t : State), s.err = false → exec i s = .next t → t.err = true →
    ∃ k : ErrKind, t = { s with
      err := true, errcode := k.code,
      olen := if i = .encode ∨ i = .hash then 0 else s.olen,
      responses := t.responses }

/-- 10 R30, 60 R226: a run of commands does the same whatever the error record holds; only the record
and the responses (which show it) may differ. -/
def Obligations.ErrorRecordDoesNotSteerARun : Prop :=
  ∀ (is : List Instr) (s : State) (e : Bool) (c : BitVec 4),
    ∃ t u, runCommands is s = .next t ∧ runCommands is { s with err := e, errcode := c } = .next u ∧
      u = { t with err := u.err, errcode := u.errcode, responses := u.responses }

/-- 60 R221: the first error in the order cost, salt, password, among the inputs used. -/
def Obligations.ValidationOrder : Prop :=
  ∀ (u : Uses) (s : State),
    let badCost := u.cost = true ∧ (s.cost.toNat < s.cfg.costMin ∨ s.cfg.costMax < s.cost.toNat)
    let badSalt := u.salt = true ∧ s.slen.toNat ≠ 16
    let badPw := u.pw = true ∧ s.plen.toNat = 0
    (badCost → s.validate u = some .invalidCost) ∧
    (¬badCost → badSalt → s.validate u = some .invalidSaltLength) ∧
    (¬badCost → ¬badSalt → badPw → s.validate u = some .emptyPassword) ∧
    (¬badCost → ¬badSalt → ¬badPw → s.validate u = none)

/-! ## The invariant -/

/-- 10 R35: the reset state of every instance meets the invariant. -/
def Obligations.ResetMeetsTheInvariant : Prop :=
  State.reset.Inv ∧ ∀ (c : Config) (tab : Tables), c.Wf → (State.resetWith c tab).Inv

/-- 10 R20, R28, R29, R31, 60 R220, R229, 43 R174: every step keeps the invariant: ranges of the length
registers, canonical byte spaces inside their capacities, a legal error code, tables that are what
`TSTATE` says (exactly `SEED`, or the finished tables for the present inputs), and a hash string of the
format's grammar while `OLEN` is not 0. -/
def Obligations.EveryStepKeepsTheInvariant : Prop :=
  ∀ s t : State, s.Inv → step s = .next t → t.Inv

/-! ## Housekeeping -/

/-- 44 R190, R200: NOP and RDSTAT respond `STATUS` and change nothing. -/
def Obligations.NopAndRdstatOnlyRespondStatus : Prop :=
  ∀ s : State, exec .nop s = .next s.answeringStatus ∧ exec .rdstat s = .next s.answeringStatus

/-- 44 R191: CLR puts every element to its reset value but `ERR` and `ERRCODE`; the table words become
unspecified, so nothing is said of them. -/
def Obligations.ClrKeepsOnlyTheErrorRecord : Prop :=
  ∀ s : State, ∃ tab n, exec .clr s = .next
    ({ State.resetWith s.cfg tab with
        err := s.err, errcode := s.errcode,
        freeNext := n, input := s.input, responses := s.responses } : State).answeringStatus

/-- 44 R192: CLRERR clears the error record and nothing else. -/
def Obligations.ClrerrClearsOnlyTheRecord : Prop :=
  ∀ s : State, exec .clrerr s =
    .next ({ s with err := false, errcode := 0 } : State).answeringStatus

/-! ## Loads -/

/-- 44 R193, R194: SETCOST and SETSLEN store any `b` and demote FINAL to MIXED. -/
def Obligations.SetcostAndSetslenStoreAnyByte : Prop :=
  ∀ (b : Byte) (s : State),
    exec (.setcost b) s =
      .next ({ s with cost := b, tstate := s.tstate.demoted } : State).answeringStatus ∧
    exec (.setslen b) s =
      .next ({ s with slen := b, tstate := s.tstate.demoted } : State).answeringStatus

/-- 44 R195: SETPLEN stores a length up to `PW_MAX` and demotes; above it, `BadLength` (7). -/
def Obligations.SetplenStoresUpToTheCapacity : Prop :=
  ∀ (a : Half) (s : State),
    (s.cfg.pwMax < a.toNat → exec (.setplen a) s = .next (s.errored 7).answeringStatus) ∧
    (a.toNat ≤ s.cfg.pwMax → exec (.setplen a) s =
      .next ({ s with plen := a, tstate := s.tstate.demoted } : State).answeringStatus)

/-- 44 R196: SETDLEN stores a length up to `D_MAX`, touching neither `D` nor `TSTATE`; above it,
`BadLength` (7). -/
def Obligations.SetdlenStoresUpToTheCapacity : Prop :=
  ∀ (a : Half) (s : State),
    (s.cfg.dMax < a.toNat → exec (.setdlen a) s = .next (s.errored 7).answeringStatus) ∧
    (a.toNat ≤ s.cfg.dMax →
      exec (.setdlen a) s = .next ({ s with dlen := a } : State).answeringStatus)

/-- 44 R197: LDSALT writes byte `a` of `SALT` and no other byte, and demotes; from index 16 on,
`BadIndex` (6). -/
def Obligations.LdsaltWritesOneSaltByte : Prop :=
  ∀ (a : Half) (b : Byte) (s : State), s.salt.wf →
    (16 ≤ a.toNat → exec (.ldsalt a b) s = .next (s.errored 6).answeringStatus) ∧
    (a.toNat < 16 → ∃ m : Memory, exec (.ldsalt a b) s =
        .next ({ s with salt := m, tstate := s.tstate.demoted } : State).answeringStatus ∧
      ∀ i, m.read i = if i = a.toNat then b else s.salt.read i)

/-- 44 R198: LDPW writes byte `a` of `PW` and no other byte, and demotes; from index `PW_MAX` on,
`BadIndex` (6). -/
def Obligations.LdpwWritesOnePasswordByte : Prop :=
  ∀ (a : Half) (b : Byte) (s : State), s.pw.wf →
    (s.cfg.pwMax ≤ a.toNat → exec (.ldpw a b) s = .next (s.errored 6).answeringStatus) ∧
    (a.toNat < s.cfg.pwMax → ∃ m : Memory, exec (.ldpw a b) s =
        .next ({ s with pw := m, tstate := s.tstate.demoted } : State).answeringStatus ∧
      ∀ i, m.read i = if i = a.toNat then b else s.pw.read i)

/-- 44 R199: LDD writes byte `a` of `D` and no other byte, and does not touch `TSTATE`; from index
`D_MAX` on, `BadIndex` (6). -/
def Obligations.LddWritesOneDataByte : Prop :=
  ∀ (a : Half) (b : Byte) (s : State), s.d.wf →
    (s.cfg.dMax ≤ a.toNat → exec (.ldd a b) s = .next (s.errored 6).answeringStatus) ∧
    (a.toNat < s.cfg.dMax → ∃ m : Memory, exec (.ldd a b) s =
        .next ({ s with d := m } : State).answeringStatus ∧
      ∀ i, m.read i = if i = a.toNat then b else s.d.read i)

/-- 10 R28, 70 R254: after a load of an input that completes, FINAL has become MIXED, even when the value
was the one already held, and ENCODE fails with `TablesState` (8). -/
def Obligations.ReloadOfAnInputStalesTheTables : Prop :=
  ∀ (i : Instr) (s : State),
    (∃ b, i = .setcost b ∨ i = .setslen b) ∨
      (∃ a, i = .setplen a ∧ a.toNat ≤ s.cfg.pwMax) ∨
      (∃ a b, i = .ldsalt a b ∧ a.toNat < 16) ∨
      (∃ a b, i = .ldpw a b ∧ a.toNat < s.cfg.pwMax) →
    s.tstate = .final → s.err = false →
    ∃ t u, exec i s = .next t ∧ t.tstate = .mixed ∧ t.err = false ∧
      exec .encode t = .next u ∧ u.errcode = 8 ∧ u.olen = 0

/-! ## Reads -/

/-- 44 R201: RDLEN responds the selected length register and changes nothing; above selector 4,
`BadIndex` (6) and 0. -/
def Obligations.RdlenRespondsALengthRegister : Prop :=
  ∀ (a : Half) (s : State),
    (4 < a.toNat → exec (.rdlen a) s = .next ((s.errored 6).answering 0)) ∧
    (a.toNat = 0 → exec (.rdlen a) s = .next (s.answering (s.plen.setWidth 32))) ∧
    (a.toNat = 1 → exec (.rdlen a) s = .next (s.answering (s.dlen.setWidth 32))) ∧
    (a.toNat = 2 → exec (.rdlen a) s = .next (s.answering (s.olen.setWidth 32))) ∧
    (a.toNat = 3 → exec (.rdlen a) s = .next (s.answering (s.slen.setWidth 32))) ∧
    (a.toNat = 4 → exec (.rdlen a) s = .next (s.answering (s.cost.setWidth 32)))

/-- 44 R202, R203: RDP responds `P[a]` and RDS responds `S[a div 256][a mod 256]`, changing nothing; on
UNINIT tables `TablesState` (8), then out of range `BadIndex` (6), with response 0. -/
def Obligations.RdpAndRdsRespondATableWord : Prop :=
  ∀ (a : Half) (s : State),
    (s.tstate = .uninit → exec (.rdp a) s = .next ((s.errored 8).answering 0) ∧
      exec (.rds a) s = .next ((s.errored 8).answering 0)) ∧
    (s.tstate ≠ .uninit →
      (18 ≤ a.toNat → exec (.rdp a) s = .next ((s.errored 6).answering 0)) ∧
      (a.toNat < 18 → exec (.rdp a) s = .next (s.answering (s.tab.word a.toNat))) ∧
      (1024 ≤ a.toNat → exec (.rds a) s = .next ((s.errored 6).answering 0)) ∧
      (a.toNat < 1024 → exec (.rds a) s = .next (s.answering (s.tab.word (18 + a.toNat)))))

/-- 44 R204, R205: RDD responds `D[a]` below `D_MAX`, RDOUT responds `OUT[a]` below `OLEN`, changing
nothing; otherwise `BadIndex` (6) and 0. -/
def Obligations.RddAndRdoutRespondAByte : Prop :=
  ∀ (a : Half) (s : State),
    (s.cfg.dMax ≤ a.toNat → exec (.rdd a) s = .next ((s.errored 6).answering 0)) ∧
    (a.toNat < s.cfg.dMax →
      exec (.rdd a) s = .next (s.answering ((s.d.read a.toNat).setWidth 32))) ∧
    (s.olen.toNat ≤ a.toNat → exec (.rdout a) s = .next ((s.errored 6).answering 0)) ∧
    (a.toNat < s.olen.toNat →
      exec (.rdout a) s = .next (s.answering ((s.out.read a.toNat).setWidth 32)))

/-- 30 R99, R97, 44 R205: `READOUT` on a valid string responds its bytes in order and changes nothing
else. -/
def Obligations.ReadoutRespondsTheWholeString : Prop :=
  ∀ s : State, s.cfg.Wf → s.olen.toNat = s.cfg.outLen →
    runCommands (readOut s.cfg) s = .next { s with
      responses := s.responses ++
        (List.range s.cfg.outLen).map fun i => (s.out.read i).setWidth 32 }

/-- 10 R31, 43 R175, R176: after an ENCODE or HASH that records an error, no byte of `OUT` can be read. -/
def Obligations.FailedHashLeavesNoReadableString : Prop :=
  ∀ (i : Instr) (s t : State), i = .encode ∨ i = .hash → s.err = false →
    exec i s = .next t → t.err = true →
    t.olen = 0 ∧ t.out = s.out ∧ ∀ a, ∃ u, exec (.rdout a) t = .next u ∧ u.lastResponse = some 0

/-! ## BitPacking and the cipher -/

/-- 40 R123: the round-trip laws in both directions, at both widths. -/
def Obligations.BytesAndIntegersRoundTrip : Prop :=
  (∀ v : Word, bytesToWord (uintToBytes v) = v) ∧
  (∀ v : Block, bytesToBlock (uintToBytes v) = v) ∧
  (∀ s : List Byte, s.length = 4 → uintToBytes (bytesToWord s) = s) ∧
  (∀ s : List Byte, s.length = 8 → uintToBytes (bytesToBlock s) = s)

/-- 41 R130: `F` as natural arithmetic on the four S-box words of the quarters of `x`. -/
def Obligations.RoundFunctionValue : Prop :=
  ∀ (t : Tables) (q0 q1 q2 q3 : Byte),
    let s := fun (b : Nat) (q : Byte) => (t.word (18 + 256 * b + q.toNat)).toNat
    (F t (q0 ++ q1 ++ q2 ++ q3 : BitVec (8 + 8 + 8 + 8))).toNat =
      ((((s 0 q0 + s 1 q1) % 2 ^ 32) ^^^ s 2 q2) + s 3 q3) % 2 ^ 32

/-- 41 R131, R132: the block function in closed form: with `t_i = F(L_i xor P[i])` and
`(L_{i+1}, R_{i+1}) = (R_i xor t_i, t_i)`, the output is `(R_16 xor P[16], L_16 xor P[17])`. -/
def Obligations.EncryptBlockClosedForm : Prop :=
  ∀ (t : Tables) (L R : Nat → Word),
    (∀ i < 16, L (i + 1) = R i ^^^ F t (L i ^^^ t.word i) ∧ R (i + 1) = F t (L i ^^^ t.word i)) →
    encryptBlock t (L 0, R 0) = (R 16 ^^^ t.word 16, L 16 ^^^ t.word 17)

/-- 41 R137, R135: ENCBLK on tables that hold values encrypts block `a` of `D` in place when it is wholly
inside `DLEN`, and changes no other byte and no other register; else `TablesState` (8), then `BadIndex`
(6), with no other change. -/
def Obligations.EncblkEncryptsOneBlock : Prop :=
  ∀ (a : Half) (s : State), s.d.wf →
    (s.tstate = .uninit → exec (.encblk a) s = .next (s.errored 8).answeringStatus) ∧
    (s.tstate ≠ .uninit → s.dlen.toNat < 8 * a.toNat + 8 →
      exec (.encblk a) s = .next (s.errored 6).answeringStatus) ∧
    (s.tstate ≠ .uninit → 8 * a.toNat + 8 ≤ s.dlen.toNat → ∃ m : Memory,
      exec (.encblk a) s = .next ({ s with d := m } : State).answeringStatus ∧
      m.blockAt a.toNat = encryptBlock64 s.tab (s.d.blockAt a.toNat) ∧
      ∀ i, i < 8 * a.toNat ∨ 8 * a.toNat + 8 ≤ i → m.read i = s.d.read i)

/-- 41 R138, R136: ENCBUF encrypts every chunk of `D[0..DLEN-1]`, the tail counting as zero, each on its
own and in place; `DLEN` becomes `ceil8(DLEN)`; no other byte and no other register changes. On UNINIT
tables `TablesState` (8). -/
def Obligations.EncbufEncryptsThePaddedBuffer : Prop :=
  ∀ s : State, s.d.wf → s.dlen.toNat ≤ 65528 →
    let nb := (s.dlen.toNat + 7) / 8
    (s.tstate = .uninit → exec .encbuf s = .next (s.errored 8).answeringStatus) ∧
    (s.tstate ≠ .uninit → ∃ (m : Memory) (n : Half),
      exec .encbuf s = .next ({ s with d := m, dlen := n } : State).answeringStatus ∧
      n.toNat = 8 * nb ∧
      (∀ j < nb, m.blockAt j =
        encryptBlock64 s.tab (s.d.paddedBlockAt s.dlen.toNat j)) ∧
      ∀ i, 8 * nb ≤ i → m.read i = s.d.read i)

/-! ## The key schedule -/

/-- 42 R158, R150, 10 R23: INIT puts every table word to its word of `SEED` and the tag to SEEDED, and
changes nothing else. -/
def Obligations.InitSeedsEveryTableWord : Prop :=
  ∀ s : State, ∃ tab : Tables,
    exec .init s = .next ({ s with tab := tab, tstate := .seeded } : State).answeringStatus ∧
    ∀ n : Fin 1042, tab.word n = s.cfg.seed.get n

/-- 42 R151: byte `k` of key word `n` is the key byte at offset `(4n + k) mod klen`. -/
def Obligations.KeyWordWrapsByteByByte : Prop :=
  ∀ (key : List Byte) (n : Nat) (k : Fin 4), 1 ≤ key.length →
    (keyWord key key.length n).extractLsb' (24 - 8 * k) 8 =
      key.getD ((4 * n + k) % key.length) 0

/-- 42 R151, 95 V7: key bytes from index 72 on are never read, and a key repeated gives the same words. -/
def Obligations.KeyWordsReadAtMost72Bytes : Prop :=
  (∀ (key key' : List Byte) (n : Fin 18), 72 ≤ key.length → key'.length = key.length →
      key'.take 72 = key.take 72 → keyWord key' key'.length n = keyWord key key.length n) ∧
  ∀ (key : List Byte) (n : Fin 18), 1 ≤ key.length →
    keyWord (key ++ key) (2 * key.length) n = keyWord key key.length n

/-- 42 R152 to R156, 20 R71: a pass xors the key words into the P-array, then makes 521 encryptions,
each with the tables as the one before left them: encryption `k` encrypts the running block xored with
salt half `k mod 2`, and its two halves replace the table words `2k` and `2k + 1` of the linear index,
and no other word. -/
def Obligations.ExpandKeyIs521ChainedEncryptions : Prop :=
  ∀ (t : Tables) (key salt16 : List Byte), salt16.length = 16 →
    ∃ (T : Nat → Tables) (B : Nat → Block),
      (∀ n, (T 0).word n = if n < 18 then t.word n ^^^ keyWord key key.length n else t.word n) ∧
      B 0 = 0 ∧
      (∀ k < 521,
        B (k + 1) = encryptBlock64 (T k)
          (B k ^^^ octet fun x => salt16.getD (8 * (k % 2) + x) 0) ∧
        ∀ n, (T (k + 1)).word n =
          if n = 2 * k then (B (k + 1)).extractLsb' 32 32
          else if n = 2 * k + 1 then (B (k + 1)).extractLsb' 0 32
          else (T k).word n) ∧
      expandKey t key key.length salt16 = T 521

/-- 42 R159, 30 R101: XKEY runs one pass with the key `KSEL` selects and the salt `SSEL` selects, and
sets MIXED; `TablesState` (8), then `InvalidSaltLength` (2) when it uses the salt, then `EmptyPassword`
(3) when the key is the password, with no other change. -/
def Obligations.XkeyRunsOnePass : Prop :=
  ∀ (k : KeySource) (x : SaltSource) (s : State),
    let usesSalt := k = .salt ∨ x = .real
    let i := Instr.xkey k x
    (s.tstate = .uninit → exec i s = .next (s.errored 8).answeringStatus) ∧
    (s.tstate ≠ .uninit → usesSalt → s.slen.toNat ≠ 16 →
      exec i s = .next (s.errored 2).answeringStatus) ∧
    (s.tstate ≠ .uninit → (usesSalt → s.slen.toNat = 16) → k = .password → s.plen.toNat = 0 →
      exec i s = .next (s.errored 3).answeringStatus) ∧
    (s.tstate ≠ .uninit → (usesSalt → s.slen.toNat = 16) → (k = .password → 1 ≤ s.plen.toNat) →
      let key := match k with
        | .password => s.pw.readN 0 s.plen.toNat
        | .salt => s.salt.readN 0 16
      let salt16 := match x with
        | .zero => List.replicate 16 0
        | .real => s.salt.readN 0 16
      exec i s = .next ({ s with
        tab := expandKey s.tab key key.length salt16, tstate := .mixed } : State).answeringStatus)

/-- 42 R160, R157, R161: GENKEYS from SEEDED tables and valid inputs runs one pass with the zero salt and
then `2^COST` times pass A and pass B, sets FINAL, and changes nothing else; else `TablesState` (8) or
the first input error, with no other change. -/
def Obligations.GenkeysStretchesTheSeededTables : Prop :=
  ∀ s : State,
    (s.tstate ≠ .seeded → exec .genkeys s = .next (s.errored 8).answeringStatus) ∧
    (∀ k, s.tstate = .seeded → s.validate { cost := true, salt := true, pw := true } = some k →
      exec .genkeys s = .next (s.errored k.code).answeringStatus) ∧
    (s.tstate = .seeded → s.InputsValid →
      let pw := s.pw.readN 0 s.plen.toNat
      let salt := s.salt.readN 0 16
      ∃ T : Nat → Tables,
        T 0 = expandKey s.tab pw s.plen.toNat (List.replicate 16 0) ∧
        (∀ it < 2 ^ s.cost.toNat,
          T (it + 1) = expandKey (expandKey (T it) pw s.plen.toNat salt) salt 16 salt) ∧
        exec .genkeys s = .next
          ({ s with tab := T (2 ^ s.cost.toNat), tstate := .final } : State).answeringStatus)

/-- 42 R159: `INIT`, `XKEY 0`, then `2^COST` times (`XKEY 2`, `XKEY 3`) leaves the same tables as `INIT`,
`GENKEYS`, with `TSTATE = MIXED` instead of FINAL and everything else but the responses the same. -/
def Obligations.StagedPassesEqualGenkeys : Prop :=
  ∀ s : State, s.InputsValid →
    ∃ t u, runCommands [.init, .genkeys] s = .next t ∧
      runCommands (stagedSchedule s.cost.toNat) s = .next u ∧
      t.tstate = .final ∧ u = { t with tstate := .mixed, responses := u.responses }

/-! ## The encoder -/

/-- 43 R171: the text encoding bit by bit: `ceil(8n / 6)` characters, character `g` being that of the six
bits from `6g`, zero bits past the end. -/
def Obligations.TextEncodingBitByBit : Prop :=
  ∀ (c : Config) (s : List Byte),
    (b64 c s).length = (8 * s.length + 5) / 6 ∧
    ∀ g < (8 * s.length + 5) / 6, ∃ v : Fin 64,
      (b64 c s)[g]? = some (c.alphabet.get v) ∧
      ∀ i < 6, v.val.testBit (5 - i) = bitAt s (6 * g + i)

/-- 43 R175, R170, R172 to R174: ENCODE on tables that are not finished, or with an invalid `COST` or
`SLEN`, sets `OLEN` to 0, records the error and changes nothing else; otherwise it leaves in `D[0..23]`
the 64-fold encryption of each block of `MAGIC`, and in `OUT` the tag, the two cost digits, `$`, the salt
field and the hash field, with `DLEN = 24` and `OLEN = OUT_LEN`; nothing else changes. -/
def Obligations.EncodeFormatsTheHash : Prop :=
  ∀ s : State, s.cfg.Wf → s.d.wf → s.out.wf →
    let dropped : State := { s with olen := 0 }
    (s.tstate ≠ .final → exec .encode s = .next (dropped.errored 8).answeringStatus) ∧
    (∀ k, s.tstate = .final → s.validate { cost := true, salt := true, pw := false } = some k →
      exec .encode s = .next (dropped.errored k.code).answeringStatus) ∧
    (s.tstate = .final → s.cfg.costMin ≤ s.cost.toNat → s.cost.toNat ≤ s.cfg.costMax →
      s.slen.toNat = 16 → ∃ (d out : Memory) (n : Half) (o : Byte),
      exec .encode s =
        .next ({ s with d := d, dlen := n, out := out, olen := o } : State).answeringStatus ∧
      n.toNat = 24 ∧ o.toNat = s.cfg.outLen ∧
      (∀ j : Fin 3, d.blockAt j = (encryptBlock64 s.tab)^[64] (magicBlock s.cfg j)) ∧
      (∀ i, 24 ≤ i → d.read i = s.d.read i) ∧
      (∀ i, s.cfg.outLen ≤ i → out.read i = s.out.read i) ∧
      out.readN 0 s.cfg.outLen =
        [0x24, 0x32, 0x61, 0x24] ++
        [BitVec.ofNat 8 (0x30 + s.cost.toNat / 10), BitVec.ofNat 8 (0x30 + s.cost.toNat % 10)] ++
        [0x24] ++ (b64 s.cfg (s.salt.readN 0 16)).take s.cfg.saltW ++
        (b64 s.cfg (d.readN 0 24)).take s.cfg.hashW)

/-- 43 R176, 60 R221: HASH with an invalid input records the first input error and sets `OLEN` to 0, and
changes nothing else; with valid inputs it answers a next state whose tables are the stretched seed
tables, tag FINAL, `DLEN = 24`, `OLEN = OUT_LEN`, the inputs, the error record, the bytes of `D` from 24 on
and those of `OUT` from `OUT_LEN` on unchanged. -/
def Obligations.HashCompletesOrRejects : Prop :=
  ∀ s : State, s.cfg.Wf → s.d.wf →
    (∀ k, s.validate { cost := true, salt := true, pw := true } = some k →
      exec .hash s = .next (({ s with olen := 0 } : State).errored k.code).answeringStatus) ∧
    (s.InputsValid → ∃ (d out : Memory) (n : Half) (o : Byte),
      exec .hash s = .next ({ s with
        tab := generateKeys (initTables s.cfg) (s.pw.readN 0 s.plen.toNat) s.plen.toNat
          (s.salt.readN 0 16) s.cost.toNat
        tstate := .final, d := d, dlen := n, out := out, olen := o } : State).answeringStatus ∧
      n.toNat = 24 ∧ o.toNat = s.cfg.outLen ∧
      (∀ i, 24 ≤ i → d.read i = s.d.read i) ∧
      ∀ i, s.cfg.outLen ≤ i → out.read i = s.out.read i)

/-- 43 R176: from any state in which HASH succeeds, `INIT`, `GENKEYS`, `ENCODE` reaches the same state and
the same last response. -/
def Obligations.HashEqualsInitGenkeysEncode : Prop :=
  ∀ s : State, s.InputsValid →
    ∃ t u, exec .hash s = .next t ∧ runCommands [.init, .genkeys, .encode] s = .next u ∧
      u = { t with responses := u.responses } ∧ u.lastResponse = t.lastResponse

/-- 43 R176: HASH is a function of `COST`, `SALT`, `PW[0..PLEN-1]`, `PLEN` and the parameters: two states
that agree on these end with the same tables, ciphertext, string and lengths, whatever else they held. -/
def Obligations.HashDependsOnlyOnItsArguments : Prop :=
  ∀ s s' : State, s.Inv → s'.Inv → s.InputsValid →
    s'.cfg = s.cfg → s'.cost = s.cost → s'.slen = s.slen → s'.plen = s.plen →
    (∀ i < 16, s'.salt.read i = s.salt.read i) →
    (∀ i < s.plen.toNat, s'.pw.read i = s.pw.read i) →
    ∃ t t', exec .hash s = .next t ∧ exec .hash s' = .next t' ∧
      t'.tab = t.tab ∧ t'.tstate = t.tstate ∧ t'.dlen = t.dlen ∧ t'.olen = t.olen ∧
      (∀ i < 24, t'.d.read i = t.d.read i) ∧
      ∀ i < s.cfg.outLen, t'.out.read i = t.out.read i

/-- 30 R99, 43 R176, R174: `HASHCALL cost, salt, password` with a valid triple, from any state that meets
the invariant, leaves in `OUT` the whole hash string of these arguments and in `D[0..23]` the 64-fold
encryption of `MAGIC` under the tables stretched from them, with no error recorded by the run. -/
def Obligations.HashcallHashesItsArguments : Prop :=
  ∀ (s : State) (cost : Byte) (salt pw : List Byte), s.Inv →
    s.cfg.costMin ≤ cost.toNat → cost.toNat ≤ s.cfg.costMax → salt.length = 16 →
    1 ≤ pw.length → pw.length ≤ s.cfg.pwMax →
    ∃ t, runCommands (hashCall cost salt pw) s = .next t ∧
      t.err = s.err ∧ t.errcode = s.errcode ∧ t.tstate = .final ∧ t.olen.toNat = s.cfg.outLen ∧
      t.tab = generateKeys (initTables s.cfg) pw pw.length salt cost.toNat ∧
      (∀ j : Fin 3, t.d.blockAt j = (encryptBlock64 t.tab)^[64] (magicBlock s.cfg j)) ∧
      t.out.readN 0 s.cfg.outLen =
        [0x24, 0x32, 0x61, 0x24] ++
        [BitVec.ofNat 8 (0x30 + cost.toNat / 10), BitVec.ofNat 8 (0x30 + cost.toNat % 10)] ++
        [0x24] ++ (b64 s.cfg salt).take s.cfg.saltW ++
        (b64 s.cfg (t.d.readN 0 24)).take s.cfg.hashW

/-! ## Whole-machine rules -/

/-- 10 R21, R22, 70 R262: the tables are changed only by INIT, XKEY, GENKEYS, HASH, CLR. -/
def Obligations.TablesChangedOnlyByTheKeySchedule : Prop :=
  ∀ (i : Instr) (s : State),
    i ≠ .init → (∀ k x, i ≠ .xkey k x) → i ≠ .genkeys → i ≠ .hash → i ≠ .clr →
    ∃ t, exec i s = .next t ∧ t.tab = s.tab

/-- 10 R25, R26, R27: `COST` is written only by SETCOST and CLR, `SLEN` by SETSLEN and CLR, `SALT` by LDSALT
and CLR, `PLEN` by SETPLEN and CLR, `PW` by LDPW and CLR. -/
def Obligations.InputsWrittenOnlyByTheirLoads : Prop :=
  ∀ (i : Instr) (s : State), i ≠ .clr → ∃ t, exec i s = .next t ∧
    ((∀ b, i ≠ .setcost b) → t.cost = s.cost) ∧
    ((∀ b, i ≠ .setslen b) → t.slen = s.slen) ∧
    ((∀ a b, i ≠ .ldsalt a b) → t.salt = s.salt) ∧
    ((∀ a, i ≠ .setplen a) → t.plen = s.plen) ∧
    ((∀ a b, i ≠ .ldpw a b) → t.pw = s.pw)

/-- 10 R20: `D` is written only by LDD, ENCBLK, ENCBUF, ENCODE, HASH, CLR; `DLEN` only by SETDLEN, ENCBUF,
ENCODE, HASH, CLR; `OUT` and `OLEN` only by ENCODE, HASH, CLR. -/
def Obligations.BuffersWrittenOnlyByTheirCommands : Prop :=
  ∀ (i : Instr) (s : State), i ≠ .clr → i ≠ .encode → i ≠ .hash → ∃ t, exec i s = .next t ∧
    t.out = s.out ∧ t.olen = s.olen ∧
    (i ≠ .encbuf → (∀ a, i ≠ .setdlen a) → t.dlen = s.dlen) ∧
    (i ≠ .encbuf → (∀ a, i ≠ .encblk a) → (∀ a b, i ≠ .ldd a b) → t.d = s.d)

/-- 10 R28: the transitions of `TSTATE`. -/
def Obligations.TagTransitions : Prop :=
  ∀ (i : Instr) (s : State), ∃ t, exec i s = .next t ∧
    (i = .clr → t.tstate = .uninit) ∧
    (i = .init → t.tstate = .seeded) ∧
    ((∃ k x, i = .xkey k x) → t.tstate = s.tstate ∨ t.tstate = .mixed) ∧
    (i = .genkeys ∨ i = .hash → t.tstate = s.tstate ∨ t.tstate = .final) ∧
    ((∃ a b, i = .setcost b ∨ i = .setslen b ∨ i = .setplen a ∨ i = .ldsalt a b ∨ i = .ldpw a b) →
      t.tstate = s.tstate ∨ (s.tstate = .final ∧ t.tstate = .mixed)) ∧
    (i ≠ .clr → i ≠ .init → (∀ k x, i ≠ .xkey k x) → i ≠ .genkeys → i ≠ .hash →
      (∀ b, i ≠ .setcost b ∧ i ≠ .setslen b) → (∀ a, i ≠ .setplen a) →
      (∀ a b, i ≠ .ldsalt a b ∧ i ≠ .ldpw a b) → t.tstate = s.tstate)

/-! ## What cannot be observed -/

/-- 10 R35, R28, 93 U4: the unspecified table words of an UNINIT state are unobservable: two runs of the
same commands that differ only in these words give the same responses and end in the same state, but for
table words that are still unspecified. -/
def Obligations.UnspecifiedTableWordsAreUnobservable : Prop :=
  ∀ (is : List Instr) (s : State) (tab : Tables), s.tstate = .uninit →
    ∃ t u, runCommands is s = .next t ∧ runCommands is { s with tab := tab } = .next u ∧
      u.responses = t.responses ∧ u = { t with tab := u.tab } ∧
      (t.tstate ≠ .uninit → u.tab = t.tab)

/-- 20 R60, R69, 30 R93: `SALT` and `PW` cannot be read back: the response of a command does not depend on
their bytes. -/
def Obligations.SecretsCannotBeReadBack : Prop :=
  ∀ (i : Instr) (s : State) (salt pw : Memory),
    ∃ t u, exec i s = .next t ∧ exec i { s with salt := salt, pw := pw } = .next u ∧
      u.responses = t.responses

/-- 10 R27, 93 U8: the bytes `PW[PLEN..PW_MAX-1]` are read by no command. -/
def Obligations.PasswordBytesBeyondTheLengthAreIgnored : Prop :=
  ∀ (i : Instr) (s : State) (pw : Memory), (∀ k < s.plen.toNat, pw.read k = s.pw.read k) →
    ∃ t u, exec i s = .next t ∧ exec i { s with pw := pw } = .next u ∧ u = { t with pw := u.pw }

/-- 20 R76, 60 R231: instances share no state: a step of one leaves the others as they were, and steps of
two instances may be taken in either order. -/
def Obligations.InstancesAreIndependent : Prop :=
  ∀ (sys : System) (m n : Nat), m ≠ n →
    (∃ sys', sys.stepEngine m = .next sys' ∧ sys'.engines[n]? = sys.engines[n]?) ∧
    ∃ x y z, sys.stepEngine m = .next x ∧ x.stepEngine n = .next z ∧
      sys.stepEngine n = .next y ∧ y.stepEngine m = .next z
end

