-- ==== Sys2Proof/Laws/Bank.lean ====
section
/-!
SUPPORT. Reading a bank after writing or filling it.
-/

namespace Sys2Proof

variable {α : Type} {n : Nat}

theorem Bank.ext_get {x y : Bank α n} (h : ∀ i, x.get i = y.get i) : x = y := by
  obtain ⟨xs, hx⟩ := x
  obtain ⟨ys, hy⟩ := y
  have : xs = ys := List.ext_getElem (by rw [hx, hy]) fun i h₁ _ => h ⟨i, hx ▸ h₁⟩
  subst this
  rfl

@[simp] theorem Bank.get_tabulate (f : Fin n → α) (i : Fin n) : (Bank.tabulate n f).get i = f i := by
  simp [Bank.get, Bank.tabulate]

@[simp] theorem Bank.get_set_self (b : Bank α n) (i : Fin n) (v : α) : (b.set i v).get i = v := by
  simp [Bank.get, Bank.set]

theorem Bank.get_set_ne (b : Bank α n) {i j : Fin n} (v : α) (h : i ≠ j) :
    (b.set i v).get j = b.get j := by
  have : i.val ≠ j.val := fun e => h (Fin.ext e)
  simp [Bank.get, Bank.set, this]

theorem Bank.get_set (b : Bank α n) (i j : Fin n) (v : α) :
    (b.set i v).get j = if i = j then v else b.get j := by
  split
  · subst_vars; simp
  · exact b.get_set_ne v ‹_›

end Sys2Proof
end

