-- ==== Sys2Proof/Laws/Bytes.lean ====
section
/-!
SUPPORT. Bytes packed most significant first, as concatenations (spec/40_bitpacking.md).
-/

namespace Sys2Proof.Machine

/-- One more byte on the right is `* 256 +`. -/
theorem toNat_append_byte {n : Nat} (x : BitVec n) (b : Byte) :
    (x ++ b).toNat = x.toNat * 256 + b.toNat := by
  rw [BitVec.toNat_append, ← Nat.shiftLeft_add_eq_or_of_lt b.isLt, Nat.shiftLeft_eq]

theorem bytesToWord_four (b0 b1 b2 b3 : Byte) :
    bytesToWord [b0, b1, b2, b3] = (b0 ++ b1 ++ b2 ++ b3 : BitVec (8 + 8 + 8 + 8)) := by
  refine BitVec.eq_of_toNat_eq ?_
  have h : bytesToNat [b0, b1, b2, b3] =
      (b0 ++ b1 ++ b2 ++ b3 : BitVec (8 + 8 + 8 + 8)).toNat := by
    simp only [toNat_append_byte, bytesToNat, List.foldl_cons, List.foldl_nil]
    omega
  rw [bytesToWord, BitVec.toNat_ofNat, h]
  exact Nat.mod_eq_of_lt (BitVec.isLt _)

theorem bytesToBlock_eight (f : Nat → Byte) :
    bytesToBlock [f 0, f 1, f 2, f 3, f 4, f 5, f 6, f 7] = octet f := by
  refine BitVec.eq_of_toNat_eq ?_
  have h : bytesToNat [f 0, f 1, f 2, f 3, f 4, f 5, f 6, f 7] = (octet f).toNat := by
    simp only [octet, toNat_append_byte, bytesToNat, List.foldl_cons, List.foldl_nil]
    omega
  rw [bytesToBlock, BitVec.toNat_ofNat, h]
  exact Nat.mod_eq_of_lt (BitVec.isLt _)

theorem toNat_extract {w : Nat} (v : BitVec w) (lo n : Nat) :
    (v.extractLsb' lo n).toNat = v.toNat / 2 ^ lo % 2 ^ n := by
  rw [BitVec.extractLsb'_toNat, Nat.shiftRight_eq_div_pow]

theorem toNat_octet (f : Nat → Byte) : (octet f).toNat =
    ((((((((f 0).toNat * 256 + (f 1).toNat) * 256 + (f 2).toNat) * 256 + (f 3).toNat) * 256 +
      (f 4).toNat) * 256 + (f 5).toNat) * 256 + (f 6).toNat) * 256 + (f 7).toNat) := by
  simp only [octet, toNat_append_byte]

/-- A block as its bytes: byte `k` is bits `63 - 8k .. 56 - 8k`. -/
theorem octet_extract (v : Block) : octet (fun k => v.extractLsb' (56 - 8 * k) 8) = v := by
  refine BitVec.eq_of_toNat_eq ?_
  have h := v.isLt
  simp only [toNat_octet, toNat_extract]
  omega

/-- Byte `k` of eight packed bytes. -/
theorem extract_octet (f : Nat → Byte) {k : Nat} (hk : k < 8) :
    (octet f).extractLsb' (56 - 8 * k) 8 = f k := by
  refine BitVec.eq_of_toNat_eq ?_
  have h0 := (f 0).isLt
  have h1 := (f 1).isLt
  have h2 := (f 2).isLt
  have h3 := (f 3).isLt
  have h4 := (f 4).isLt
  have h5 := (f 5).isLt
  have h6 := (f 6).isLt
  have h7 := (f 7).isLt
  rw [toNat_extract, toNat_octet]
  interval_cases k <;> norm_num <;> omega

theorem splitUint64_octet (f : Nat → Byte) : splitUint64 (octet f) =
    ((f 0 ++ f 1 ++ f 2 ++ f 3 : BitVec (8 + 8 + 8 + 8)),
     (f 4 ++ f 5 ++ f 6 ++ f 7 : BitVec (8 + 8 + 8 + 8))) := by
  have h4 := (f 4).isLt
  have h5 := (f 5).isLt
  have h6 := (f 6).isLt
  have h7 := (f 7).isLt
  have h0 := (f 0).isLt
  have h1 := (f 1).isLt
  have h2 := (f 2).isLt
  have h3 := (f 3).isLt
  refine Prod.ext (BitVec.eq_of_toNat_eq ?_) (BitVec.eq_of_toNat_eq ?_) <;>
    simp only [splitUint64, toNat_extract, toNat_octet, toNat_append_byte] <;> omega

@[simp] theorem length_uintToBytes {w : Nat} (v : BitVec w) : (uintToBytes v).length = w / 8 := by
  simp [uintToBytes]

theorem getElem_uintToBytes {w : Nat} (v : BitVec w) (k : Nat) (h : k < (uintToBytes v).length) :
    (uintToBytes v)[k] = v.extractLsb' (w - 8 * k - 8) 8 := by
  simp [uintToBytes]

theorem octet_congr {f g : Nat → Byte} (h : ∀ k < 8, f k = g k) : octet f = octet g := by
  simp only [octet, h 0 (by omega), h 1 (by omega), h 2 (by omega), h 3 (by omega),
    h 4 (by omega), h 5 (by omega), h 6 (by omega), h 7 (by omega)]

end Sys2Proof.Machine
end

