-- ==== Sys2Proof/Laws/Memory.lean ====
section
/-!
SUPPORT. The byte spaces: read after write, and every operation keeps the canonical form and the
capacity.
-/

namespace Sys2Proof.Machine

@[simp] theorem Memory.read_nil (i : Nat) : Memory.read [] i = Memory.unlisted := rfl

@[simp] theorem Memory.wf_nil : Memory.wf [] := by simp [Memory.wf]

@[simp] theorem Memory.within_nil (cap : Nat) : Memory.within [] cap := by simp [Memory.within]

/-- A byte below every listed index reads as unlisted. -/
theorem Memory.read_of_lt {m : Memory} {i : Nat} (h : ∀ c ∈ m, i < c.1) : m.read i = Memory.unlisted := by
  induction m with
  | nil => rfl
  | cons c m ih =>
    obtain ⟨k, v⟩ := c
    have hk : i < k := h (k, v) (by simp)
    rw [Memory.read, if_neg (by omega)]
    exact ih fun c hc => h c (by simp [hc])

theorem Memory.wf_tail {c : Host.Cell} {m : Memory} (h : Memory.wf (c :: m)) : m.wf :=
  ⟨(List.pairwise_cons.1 h.1).2, fun x hx => h.2 x (by simp [hx])⟩

theorem Memory.lt_of_wf_cons {c : Host.Cell} {m : Memory} (h : Memory.wf (c :: m)) :
    ∀ x ∈ m, c.1 < x.1 := (List.pairwise_cons.1 h.1).1

theorem Memory.read_write_self {m : Memory} (h : m.wf) (i : Nat) (b : Byte) :
    (m.write i b).read i = b := by
  induction m with
  | nil => by_cases hb : b = Memory.unlisted <;> simp [Memory.write, Memory.read, hb]
  | cons c m ih =>
    obtain ⟨k, v⟩ := c
    have hlt := Memory.lt_of_wf_cons h
    rw [Memory.write]
    split_ifs with h₁ hb h₂ hb
    · rw [hb]
      refine Memory.read_of_lt fun x hx => ?_
      rcases List.mem_cons.1 hx with rfl | hx
      · exact h₁
      · exact h₁.trans (hlt x hx)
    · simp [Memory.read]
    · rw [hb]
      exact Memory.read_of_lt fun x hx => h₂ ▸ hlt x hx
    · simp [Memory.read]
    · rw [Memory.read, if_neg (by omega)]
      exact ih (Memory.wf_tail h)

theorem Memory.read_write_ne {m : Memory} {i j : Nat} (b : Byte) (h : i ≠ j) :
    (m.write i b).read j = m.read j := by
  induction m with
  | nil => by_cases hb : b = Memory.unlisted <;> simp [Memory.write, Memory.read, hb, h]
  | cons c m ih =>
    obtain ⟨k, v⟩ := c
    rw [Memory.write]
    split_ifs with h₁ hb h₂ hb
    · rfl
    · simp [Memory.read, h]
    · have : k ≠ j := fun e => h (h₂.trans e)
      simp [Memory.read, this]
    · have : k ≠ j := fun e => h (h₂.trans e)
      simp [Memory.read, h, this]
    · simp only [Memory.read, ih]

theorem Memory.read_write {m : Memory} (h : m.wf) (i j : Nat) (b : Byte) :
    (m.write i b).read j = if i = j then b else m.read j := by
  split
  · subst_vars; exact Memory.read_write_self h _ b
  · exact Memory.read_write_ne b ‹_›

/-- The listed indices after a write: old ones, or the one written. -/
theorem Memory.mem_write {m : Memory} {i : Nat} {b : Byte} {c : Host.Cell} (h : c ∈ m.write i b) :
    c ∈ m ∨ (c = (i, b) ∧ b ≠ Memory.unlisted) := by
  induction m with
  | nil =>
    rw [Memory.write] at h
    split_ifs at h with hb
    · exact .inl h
    · exact .inr ⟨by simpa using h, hb⟩
  | cons x m ih =>
    obtain ⟨k, v⟩ := x
    rw [Memory.write] at h
    split_ifs at h with h₁ hb h₂ hb
    · exact .inl h
    · rcases List.mem_cons.1 h with h | h
      · exact .inr ⟨h, hb⟩
      · exact .inl h
    · exact .inl (by simp [h])
    · rcases List.mem_cons.1 h with h | h
      · exact .inr ⟨h, hb⟩
      · exact .inl (by simp [h])
    · rcases List.mem_cons.1 h with h | h
      · exact .inl (by simp [h])
      · rcases ih h with h | h
        · exact .inl (by simp [h])
        · exact .inr h

/-- A write keeps the canonical form. -/
theorem Memory.wf_write {m : Memory} (h : m.wf) (i : Nat) (b : Byte) : (m.write i b).wf := by
  refine ⟨?_, fun c hc => ?_⟩
  · induction m with
    | nil => rw [Memory.write]; split_ifs <;> simp
    | cons x m ih =>
      obtain ⟨k, v⟩ := x
      have hlt := Memory.lt_of_wf_cons h
      rw [Memory.write]
      split_ifs with h₁ hb h₂ hb
      · exact h.1
      · refine List.pairwise_cons.2 ⟨fun c hc => ?_, h.1⟩
        rcases List.mem_cons.1 hc with rfl | hc
        · exact h₁
        · exact h₁.trans (hlt c hc)
      · exact (Memory.wf_tail h).1
      · exact List.pairwise_cons.2 ⟨fun c hc => h₂ ▸ hlt c hc, (Memory.wf_tail h).1⟩
      · refine List.pairwise_cons.2 ⟨fun c hc => ?_, ih (Memory.wf_tail h)⟩
        rcases Memory.mem_write hc with hc | ⟨rfl, -⟩
        · exact hlt c hc
        · show k < i
          omega
  · rcases Memory.mem_write hc with hc | ⟨rfl, hb⟩
    · exact h.2 c hc
    · exact hb

/-- A write inside the capacity keeps the space inside it. -/
theorem Memory.within_write {m : Memory} {cap i : Nat} (h : m.within cap) (hi : i < cap) (b : Byte) :
    (m.write i b).within cap := fun c hc => by
  rcases Memory.mem_write hc with hc | ⟨rfl, -⟩
  · exact h c hc
  · exact hi

/-! ## Runs of bytes -/

@[simp] theorem Memory.length_readN (m : Memory) (i n : Nat) : (m.readN i n).length = n := by
  simp [Memory.readN]

@[simp] theorem Memory.getElem_readN (m : Memory) (i n k : Nat) (h : k < (m.readN i n).length) :
    (m.readN i n)[k] = m.read (i + k) := by
  simp [Memory.readN]

/-- Two reads agree when the spaces agree on the bytes read. -/
theorem Memory.readN_congr {m m' : Memory} {i n : Nat}
    (h : ∀ k, i ≤ k → k < i + n → m.read k = m'.read k) : m.readN i n = m'.readN i n := by
  refine List.map_congr_left fun k hk => ?_
  have := List.mem_range.1 hk
  exact h _ (by omega) (by omega)

theorem Memory.wf_writeN {m : Memory} (h : m.wf) (i : Nat) (bs : List Byte) : (m.writeN i bs).wf := by
  induction bs generalizing m i with
  | nil => exact h
  | cons b bs ih => exact ih (Memory.wf_write h i b) _

theorem Memory.within_writeN {m : Memory} {cap i : Nat} (bs : List Byte) (h : m.within cap)
    (hi : i + bs.length ≤ cap) : (m.writeN i bs).within cap := by
  induction bs generalizing m i with
  | nil => exact h
  | cons b bs ih =>
    rw [List.length_cons] at hi
    exact ih (Memory.within_write h (by omega) b) (by omega)

/-- A run of writes leaves every byte outside it as it was. -/
theorem Memory.read_writeN_outside {m : Memory} {i j : Nat} (bs : List Byte)
    (h : j < i ∨ i + bs.length ≤ j) : (m.writeN i bs).read j = m.read j := by
  induction bs generalizing m i with
  | nil => rfl
  | cons b bs ih =>
    rw [List.length_cons] at h
    rw [Memory.writeN, ih (by omega), Memory.read_write_ne b (by omega)]

/-- A run of writes: byte `i + k` of the space is byte `k` of the run. -/
theorem Memory.read_writeN_inside {m : Memory} (h : m.wf) {i : Nat} (bs : List Byte) {k : Nat}
    (hk : k < bs.length) : (m.writeN i bs).read (i + k) = bs[k] := by
  induction bs generalizing m i k with
  | nil => simp at hk
  | cons b bs ih =>
    rw [Memory.writeN]
    cases k with
    | zero =>
      rw [Memory.read_writeN_outside bs (by omega)]
      simpa using Memory.read_write_self h i b
    | succ k =>
      have := ih (Memory.wf_write h i b) (i := i + 1) (k := k) (by simpa using hk)
      rw [show i + (k + 1) = i + 1 + k by omega, this]
      rfl

/-- Reading back a run of writes. -/
theorem Memory.readN_writeN {m : Memory} (h : m.wf) (i : Nat) (bs : List Byte) :
    (m.writeN i bs).readN i bs.length = bs :=
  List.ext_getElem (by simp) fun k _ h₂ => by
    rw [Memory.getElem_readN, Memory.read_writeN_inside h bs h₂]

end Sys2Proof.Machine
end

