-- ==== Sys2Proof/Laws/Cipher.lean ====
section
/-!
SUPPORT. The cipher on the data buffer: what EncD and EncryptBuffer write, and that they keep the
canonical form and the capacity (spec/41_blowfish_cipher.md R135, R136).
-/

namespace Sys2Proof.Machine

/-- The bytes EncD writes are those of the encrypted block (R133, R135). -/
theorem encD_eq (t : Tables) (d : Memory) (j : Nat) :
    encD t d j = d.writeN (8 * j) (uintToBytes (encryptBlock64 t (d.blockAt j))) := by
  have h : (bytesToWord (d.readN (8 * j) 4), bytesToWord (d.readN (8 * j + 4) 4)) =
      splitUint64 (d.blockAt j) := by
    rw [Memory.blockAt, splitUint64_octet, ← bytesToWord_four, ← bytesToWord_four]
    rfl
  rw [encD, encryptBlock64, ← h]

theorem encD_wf (t : Tables) {d : Memory} (h : d.wf) (j : Nat) : (encD t d j).wf := by
  rw [encD_eq]; exact Memory.wf_writeN h _ _

theorem encD_within (t : Tables) {d : Memory} {cap j : Nat} (h : d.within cap)
    (hj : 8 * j + 8 ≤ cap) : (encD t d j).within cap := by
  rw [encD_eq]; exact Memory.within_writeN _ h (by simpa using hj)

theorem encD_read_outside (t : Tables) (d : Memory) {i j : Nat} (h : i < 8 * j ∨ 8 * j + 8 ≤ i) :
    (encD t d j).read i = d.read i := by
  rw [encD_eq]; exact Memory.read_writeN_outside _ (by simpa using h)

theorem encD_blockAt_self (t : Tables) {d : Memory} (h : d.wf) (j : Nat) :
    (encD t d j).blockAt j = encryptBlock64 t (d.blockAt j) := by
  rw [encD_eq, Memory.blockAt, ← octet_extract (encryptBlock64 t (d.blockAt j))]
  refine octet_congr fun k hk => ?_
  rw [octet_extract, Memory.read_writeN_inside h _ (by simpa using hk), getElem_uintToBytes]
  congr 1
  omega

theorem encD_blockAt_ne (t : Tables) (d : Memory) {i j : Nat} (h : i ≠ j) :
    (encD t d j).blockAt i = d.blockAt i :=
  octet_congr fun k hk => encD_read_outside t d (by omega)

/-- The chunks `0 .. n-1` encrypted in order: each is encrypted once, on its own. -/
theorem foldl_encD (t : Tables) {d : Memory} (h : d.wf) (n : Nat) :
    let d' := (List.range n).foldl (encD t) d
    d'.wf ∧ (∀ j, d'.blockAt j = if j < n then encryptBlock64 t (d.blockAt j) else d.blockAt j) ∧
      (∀ i, 8 * n ≤ i → d'.read i = d.read i) ∧
      ∀ cap, d.within cap → 8 * n ≤ cap → d'.within cap := by
  induction n with
  | zero => exact ⟨h, by simp, fun _ _ => rfl, fun _ hc _ => hc⟩
  | succ n ih =>
    obtain ⟨h₁, h₂, h₃, h₄⟩ := ih
    simp only [List.range_succ, List.foldl_append, List.foldl_cons, List.foldl_nil]
    refine ⟨encD_wf t h₁ n, fun j => ?_, fun i hi => ?_, fun cap hc hn => ?_⟩
    · by_cases hj : j = n
      · subst hj
        rw [encD_blockAt_self t h₁, h₂, if_neg (by omega), if_pos (by omega)]
      · rw [encD_blockAt_ne t _ hj, h₂]
        have : (j < n) = (j < n + 1) := by rw [eq_iff_iff]; omega
        simp only [this]
    · rw [encD_read_outside t _ (by omega), h₃ i (by omega)]
    · exact encD_within t (h₄ cap hc (by omega)) (by omega)

/-- The buffer after the tail is zeroed (R136). -/
def zeroTail (d : Memory) (dlen : Nat) : Memory :=
  d.writeN dlen (List.replicate (8 * ((dlen + 7) / 8) - dlen) 0)

theorem zeroTail_wf {d : Memory} (h : d.wf) (n : Nat) : (zeroTail d n).wf := Memory.wf_writeN h _ _

theorem zeroTail_read {d : Memory} (h : d.wf) (n i : Nat) : (zeroTail d n).read i =
    if i < n ∨ 8 * ((n + 7) / 8) ≤ i then d.read i else 0 := by
  split_ifs with hi
  · exact Memory.read_writeN_outside _ (by simp only [List.length_replicate]; omega)
  · obtain ⟨k, rfl⟩ : ∃ k, i = n + k := ⟨i - n, by omega⟩
    have := Memory.read_writeN_inside h (i := n)
      (List.replicate (8 * ((n + 7) / 8) - n) 0) (k := k) (by simp; omega)
    simpa [zeroTail] using this

theorem zeroTail_blockAt {d : Memory} (h : d.wf) {n j : Nat} (hj : j < (n + 7) / 8) :
    (zeroTail d n).blockAt j = d.paddedBlockAt n j :=
  octet_congr fun k hk => by
    rw [zeroTail_read h]
    have : (8 * j + k < n ∨ 8 * ((n + 7) / 8) ≤ 8 * j + k) = (8 * j + k < n) := by
      rw [eq_iff_iff]; omega
    simp only [this]

theorem encryptBuffer_eq (t : Tables) (d : Memory) (n : Nat) : encryptBuffer t d n =
    ((List.range ((n + 7) / 8)).foldl (encD t) (zeroTail d n), 8 * ((n + 7) / 8)) := rfl

/-- Everything EncryptBuffer does (R136). -/
theorem encryptBuffer_spec (t : Tables) {d : Memory} (h : d.wf) (n : Nat) :
    let r := encryptBuffer t d n
    r.2 = 8 * ((n + 7) / 8) ∧ r.1.wf ∧
      (∀ j < (n + 7) / 8, r.1.blockAt j = encryptBlock64 t (d.paddedBlockAt n j)) ∧
      (∀ i, 8 * ((n + 7) / 8) ≤ i → r.1.read i = d.read i) ∧
      ∀ cap, d.within cap → 8 * ((n + 7) / 8) ≤ cap → r.1.within cap := by
  obtain ⟨h₁, h₂, h₃, h₄⟩ := foldl_encD t (zeroTail_wf h n) ((n + 7) / 8)
  simp only [encryptBuffer_eq]
  refine ⟨trivial, h₁, fun j hj => ?_, fun i hi => ?_, fun cap hc hn => h₄ cap ?_ hn⟩
  · rw [h₂, if_pos hj, zeroTail_blockAt h hj]
  · rw [h₃ i hi, zeroTail_read h, if_pos (.inr hi)]
  · exact Memory.within_writeN _ hc (by simp; omega)

/-- A buffer of whole blocks has no tail to pad (R136). -/
theorem paddedBlockAt_whole (d : Memory) {n j : Nat} (h : 8 * j + 8 ≤ n) :
    d.paddedBlockAt n j = d.blockAt j :=
  octet_congr fun k hk => if_pos (by omega)

end Sys2Proof.Machine
end

