-- ==== Sys2Proof/Laws/Decode.lean ====
section
/-!
SUPPORT. The split of a word into its three fields and the join are inverse (spec/30_encoding.md R90);
the two fields of XKEY (R101).
-/

namespace Sys2Proof

/-- The value of the three fields joined (R98). -/
theorem Fields.toNat_toWord (f : Fields) :
    f.toWord.toNat = f.op.toNat * 2 ^ 24 + f.a.toNat * 2 ^ 8 + f.b.toNat := by
  show (f.op ++ f.a ++ f.b).toNat = _
  rw [BitVec.toNat_append, ← Nat.shiftLeft_add_eq_or_of_lt f.b.isLt, Nat.shiftLeft_eq,
    BitVec.toNat_append, ← Nat.shiftLeft_add_eq_or_of_lt f.a.isLt, Nat.shiftLeft_eq]
  omega

theorem Fields.ofWord_toWord (f : Fields) : Fields.ofWord f.toWord = f := by
  have h := f.toNat_toWord
  obtain ⟨op, a, b⟩ := f
  have ha := a.isLt
  have hb := b.isLt
  have ho := op.isLt
  dsimp only at h
  simp only [Fields.ofWord, Fields.mk.injEq]
  refine ⟨BitVec.eq_of_toNat_eq ?_, BitVec.eq_of_toNat_eq ?_, BitVec.eq_of_toNat_eq ?_⟩ <;>
    rw [BitVec.extractLsb'_toNat, Nat.shiftRight_eq_div_pow, h] <;> omega

theorem Fields.toWord_ofWord (w : Word) : (Fields.ofWord w).toWord = w := by
  have hw := w.isLt
  refine BitVec.eq_of_toNat_eq ?_
  rw [Fields.toNat_toWord]
  simp only [Fields.ofWord, BitVec.extractLsb'_toNat, Nat.shiftRight_eq_div_pow]
  omega

/-- A word is fixed by its three fields. -/
theorem Fields.ofWord_injective {v w : Word} (h : Fields.ofWord v = Fields.ofWord w) : v = w := by
  rw [← Fields.toWord_ofWord v, h, Fields.toWord_ofWord]

/-- The fields of an encoded command (R90, R93). -/
theorem ofWord_encode (i : Instr) :
    Fields.ofWord (encode i) = { op := i.opcode, a := i.fieldA, b := i.fieldB } :=
  Fields.ofWord_toWord _

/-- `KSEL` and `SSEL` are all of `b` when `b[7:2]` is 0 (R101). -/
theorem encodeXkeyB_decode (b : Byte) (h : b.extractLsb' 2 6 = 0) :
    encodeXkeyB (decodeKsel b) (decodeSsel b) = b := by
  revert b
  decide +kernel

/-- A legal opcode is one of the map (R94). -/
theorem Fields.opLegal_iff (f : Fields) : f.opLegal = true ↔ f.op.toNat ∈ Fields.opcodes := by
  simp [Fields.opLegal]

end Sys2Proof
end

