-- ==== Sys2Proof/Laws/Encoder.lean ====
section
/-!
SUPPORT. The encoder: what the 64 re-encryptions leave in the buffer, lengths of the text encoding and
of the hash string (spec/43_bcrypt_encoder.md).
-/

namespace Sys2Proof.Machine

theorem repeatN_eq_iterate {α : Type} (f : α → α) (n : Nat) (x : α) : repeatN f n x = f^[n] x := by
  induction n generalizing x with
  | zero => rfl
  | succ n ih => exact ih (f x)

theorem repeatN_succ' {α : Type} (f : α → α) (n : Nat) (x : α) :
    repeatN f (n + 1) x = f (repeatN f n x) := by
  rw [repeatN_eq_iterate, repeatN_eq_iterate, Function.iterate_succ_apply']

/-- The buffer with MAGIC written: its three blocks are those of MAGIC (R170). -/
theorem blockAt_magic (c : Config) {d : Memory} (h : d.wf) (j : Fin 3) :
    (d.writeN 0 c.magic.toList).blockAt j = magicBlock c j :=
  octet_congr fun k hk => by
    have hl : 8 * j.val + k < c.magic.toList.length := by rw [c.magic.size]; omega
    have := Memory.read_writeN_inside h (i := 0) c.magic.toList hl
    rw [Nat.zero_add] at this
    rw [this, List.getD_eq_getElem _ _ hl]

/-- `n` re-encryptions of a 24-byte buffer (R170). -/
theorem repeatN_encryptBuffer (t : Tables) {d : Memory} (h : d.wf) (n : Nat) :
    let r := repeatN (fun x : Memory × Nat => encryptBuffer t x.1 x.2) n (d, 24)
    r.2 = 24 ∧ r.1.wf ∧
      (∀ j < 3, r.1.blockAt j = (encryptBlock64 t)^[n] (d.blockAt j)) ∧
      (∀ i, 24 ≤ i → r.1.read i = d.read i) ∧
      ∀ cap, d.within cap → 24 ≤ cap → r.1.within cap := by
  induction n with
  | zero => exact ⟨rfl, h, fun _ _ => rfl, fun _ _ => rfl, fun _ hc _ => hc⟩
  | succ n ih =>
    rw [repeatN_succ']
    generalize repeatN (fun x : Memory × Nat => encryptBuffer t x.1 x.2) n (d, 24) = r at ih ⊢
    obtain ⟨m, k⟩ := r
    obtain ⟨rfl, h₁, h₂, h₃, h₄⟩ := ih
    obtain ⟨g₀, g₁, g₂, g₃, g₄⟩ := encryptBuffer_spec t h₁ 24
    refine ⟨g₀, g₁, fun j hj => ?_, fun i hi => ?_, fun cap hc hn => ?_⟩
    · rw [g₂ j (by omega), paddedBlockAt_whole _ (by omega), h₂ j hj, Function.iterate_succ_apply']
    · rw [g₃ i (by omega), h₃ i hi]
    · exact g₄ cap (h₄ cap hc hn) (by omega)

/-- Everything Reencrypt does (R170). -/
theorem reencrypt_spec (c : Config) (t : Tables) {d : Memory} (h : d.wf) :
    let r := reencrypt c t d
    r.2 = 24 ∧ r.1.wf ∧
      (∀ j : Fin 3, r.1.blockAt j = (encryptBlock64 t)^[64] (magicBlock c j)) ∧
      (∀ i, 24 ≤ i → r.1.read i = d.read i) ∧
      ∀ cap, d.within cap → 24 ≤ cap → r.1.within cap := by
  have hl : c.magic.toList.length = 24 := c.magic.size
  obtain ⟨h₀, h₁, h₂, h₃, h₄⟩ :=
    repeatN_encryptBuffer t (Memory.wf_writeN h 0 c.magic.toList) 64
  refine ⟨h₀, h₁, fun j => ?_, fun i hi => ?_, fun cap hc hn => h₄ cap ?_ hn⟩
  · rw [← blockAt_magic c h j]; exact h₂ j j.isLt
  · exact (h₃ i hi).trans (Memory.read_writeN_outside _ (by omega))
  · exact Memory.within_writeN _ hc (by omega)

/-- The three blocks of a buffer fix its first 24 bytes. -/
theorem readN_of_blocks {d d' : Memory} (h : ∀ j < 3, d.blockAt j = d'.blockAt j) :
    ∀ i < 24, d.read i = d'.read i := by
  intro i hi
  have e : ∀ m : Memory, m.read i = (m.blockAt (i / 8)).extractLsb' (56 - 8 * (i % 8)) 8 := by
    intro m
    rw [Memory.blockAt, extract_octet _ (by omega), Nat.div_add_mod]
  rw [e d, e d', h (i / 8) (by omega)]

/-! ## The text -/

/-- One character is a character of the alphabet (R171, R178). -/
theorem encodedChar_mem (c : Config) (v : BitVec 6) : encodedChar c v ∈ c.alphabet.toList := by
  simp [encodedChar, Bank.get]

theorem b64_mem (c : Config) (s : List Byte) : ∀ x ∈ b64 c s, x ∈ c.alphabet.toList := by
  induction s using b64.induct with
  | case1 => simp [b64]
  | case2 b0 =>
    intro x hx
    simp only [b64, List.mem_cons, List.not_mem_nil, or_false] at hx
    rcases hx with rfl | rfl <;> exact encodedChar_mem c _
  | case3 b0 b1 =>
    intro x hx
    simp only [b64, List.mem_cons, List.not_mem_nil, or_false] at hx
    rcases hx with rfl | rfl | rfl <;> exact encodedChar_mem c _
  | case4 b0 b1 b2 rest ih =>
    intro x hx
    simp only [b64, List.mem_cons] at hx
    rcases hx with rfl | rfl | rfl | rfl | hx
    · exact encodedChar_mem c _
    · exact encodedChar_mem c _
    · exact encodedChar_mem c _
    · exact encodedChar_mem c _
    · exact ih x hx

theorem length_b64 (c : Config) (s : List Byte) : (b64 c s).length = (8 * s.length + 5) / 6 := by
  induction s using b64.induct with
  | case1 => rfl
  | case2 b0 => simp [b64]
  | case3 b0 b1 => simp [b64]
  | case4 b0 b1 b2 rest ih =>
    simp only [b64, List.length_cons, ih]
    omega

theorem length_saltField (c : Config) (h : c.saltW ≤ 22) {salt : List Byte} (hs : salt.length = 16) :
    (saltField c salt).length = c.saltW := by
  rw [saltField, List.length_take, length_b64, hs]
  omega

theorem length_hashField (c : Config) (h : c.hashW ≤ 32) (d : Memory) :
    (hashField c d).length = c.hashW := by
  rw [hashField, List.length_take, length_b64, Memory.length_readN]
  omega

/-- The text has `OUT_LEN` characters (R174, 00 R8). -/
theorem length_hashText (c : Config) (h : c.Wf) (cost : Nat) {salt : List Byte}
    (hs : salt.length = 16) (d : Memory) : (hashText c cost salt d).length = c.outLen := by
  simp only [hashText, costField, List.length_append, List.length_cons, List.length_nil,
    length_saltField c h.saltW_le hs, length_hashField c h.hashW_le, Config.outLen]

@[simp] theorem length_saltBytes (s : State) : s.saltBytes.length = 16 := by
  simp [State.saltBytes]

end Sys2Proof.Machine
end

