-- ==== Sys2Proof/Laws/State.lean ====
section
/-!
SUPPORT. One lemma for each field of each named update of State.
-/

namespace Sys2Proof.Machine

variable (s : State)

/-! ## respond -/

@[simp] theorem State.respond_cfg (v : Word) : (s.respond v).cfg = s.cfg := rfl
@[simp] theorem State.respond_tab (v : Word) : (s.respond v).tab = s.tab := rfl
@[simp] theorem State.respond_tstate (v : Word) : (s.respond v).tstate = s.tstate := rfl
@[simp] theorem State.respond_cost (v : Word) : (s.respond v).cost = s.cost := rfl
@[simp] theorem State.respond_slen (v : Word) : (s.respond v).slen = s.slen := rfl
@[simp] theorem State.respond_salt (v : Word) : (s.respond v).salt = s.salt := rfl
@[simp] theorem State.respond_plen (v : Word) : (s.respond v).plen = s.plen := rfl
@[simp] theorem State.respond_pw (v : Word) : (s.respond v).pw = s.pw := rfl
@[simp] theorem State.respond_dlen (v : Word) : (s.respond v).dlen = s.dlen := rfl
@[simp] theorem State.respond_d (v : Word) : (s.respond v).d = s.d := rfl
@[simp] theorem State.respond_olen (v : Word) : (s.respond v).olen = s.olen := rfl
@[simp] theorem State.respond_out (v : Word) : (s.respond v).out = s.out := rfl
@[simp] theorem State.respond_err (v : Word) : (s.respond v).err = s.err := rfl
@[simp] theorem State.respond_errcode (v : Word) : (s.respond v).errcode = s.errcode := rfl
@[simp] theorem State.respond_freeNext (v : Word) : (s.respond v).freeNext = s.freeNext := rfl
@[simp] theorem State.respond_input (v : Word) : (s.respond v).input = s.input := rfl
@[simp] theorem State.respond_responses (v : Word) : (s.respond v).responses = s.responses ++ [v] := rfl

/-! ## respondStatus -/

@[simp] theorem State.respondStatus_cfg : (s.respondStatus).cfg = s.cfg := rfl
@[simp] theorem State.respondStatus_tab : (s.respondStatus).tab = s.tab := rfl
@[simp] theorem State.respondStatus_tstate : (s.respondStatus).tstate = s.tstate := rfl
@[simp] theorem State.respondStatus_cost : (s.respondStatus).cost = s.cost := rfl
@[simp] theorem State.respondStatus_slen : (s.respondStatus).slen = s.slen := rfl
@[simp] theorem State.respondStatus_salt : (s.respondStatus).salt = s.salt := rfl
@[simp] theorem State.respondStatus_plen : (s.respondStatus).plen = s.plen := rfl
@[simp] theorem State.respondStatus_pw : (s.respondStatus).pw = s.pw := rfl
@[simp] theorem State.respondStatus_dlen : (s.respondStatus).dlen = s.dlen := rfl
@[simp] theorem State.respondStatus_d : (s.respondStatus).d = s.d := rfl
@[simp] theorem State.respondStatus_olen : (s.respondStatus).olen = s.olen := rfl
@[simp] theorem State.respondStatus_out : (s.respondStatus).out = s.out := rfl
@[simp] theorem State.respondStatus_err : (s.respondStatus).err = s.err := rfl
@[simp] theorem State.respondStatus_errcode : (s.respondStatus).errcode = s.errcode := rfl
@[simp] theorem State.respondStatus_freeNext : (s.respondStatus).freeNext = s.freeNext := rfl
@[simp] theorem State.respondStatus_input : (s.respondStatus).input = s.input := rfl
@[simp] theorem State.respondStatus_responses : (s.respondStatus).responses = s.responses ++ [s.status] := rfl

/-! ## answering -/

@[simp] theorem State.answering_cfg (v : Word) : (s.answering v).cfg = s.cfg := rfl
@[simp] theorem State.answering_tab (v : Word) : (s.answering v).tab = s.tab := rfl
@[simp] theorem State.answering_tstate (v : Word) : (s.answering v).tstate = s.tstate := rfl
@[simp] theorem State.answering_cost (v : Word) : (s.answering v).cost = s.cost := rfl
@[simp] theorem State.answering_slen (v : Word) : (s.answering v).slen = s.slen := rfl
@[simp] theorem State.answering_salt (v : Word) : (s.answering v).salt = s.salt := rfl
@[simp] theorem State.answering_plen (v : Word) : (s.answering v).plen = s.plen := rfl
@[simp] theorem State.answering_pw (v : Word) : (s.answering v).pw = s.pw := rfl
@[simp] theorem State.answering_dlen (v : Word) : (s.answering v).dlen = s.dlen := rfl
@[simp] theorem State.answering_d (v : Word) : (s.answering v).d = s.d := rfl
@[simp] theorem State.answering_olen (v : Word) : (s.answering v).olen = s.olen := rfl
@[simp] theorem State.answering_out (v : Word) : (s.answering v).out = s.out := rfl
@[simp] theorem State.answering_err (v : Word) : (s.answering v).err = s.err := rfl
@[simp] theorem State.answering_errcode (v : Word) : (s.answering v).errcode = s.errcode := rfl
@[simp] theorem State.answering_freeNext (v : Word) : (s.answering v).freeNext = s.freeNext := rfl
@[simp] theorem State.answering_input (v : Word) : (s.answering v).input = s.input := rfl
@[simp] theorem State.answering_responses (v : Word) : (s.answering v).responses = s.responses ++ [v] := rfl

/-! ## answeringStatus -/

@[simp] theorem State.answeringStatus_cfg : (s.answeringStatus).cfg = s.cfg := rfl
@[simp] theorem State.answeringStatus_tab : (s.answeringStatus).tab = s.tab := rfl
@[simp] theorem State.answeringStatus_tstate : (s.answeringStatus).tstate = s.tstate := rfl
@[simp] theorem State.answeringStatus_cost : (s.answeringStatus).cost = s.cost := rfl
@[simp] theorem State.answeringStatus_slen : (s.answeringStatus).slen = s.slen := rfl
@[simp] theorem State.answeringStatus_salt : (s.answeringStatus).salt = s.salt := rfl
@[simp] theorem State.answeringStatus_plen : (s.answeringStatus).plen = s.plen := rfl
@[simp] theorem State.answeringStatus_pw : (s.answeringStatus).pw = s.pw := rfl
@[simp] theorem State.answeringStatus_dlen : (s.answeringStatus).dlen = s.dlen := rfl
@[simp] theorem State.answeringStatus_d : (s.answeringStatus).d = s.d := rfl
@[simp] theorem State.answeringStatus_olen : (s.answeringStatus).olen = s.olen := rfl
@[simp] theorem State.answeringStatus_out : (s.answeringStatus).out = s.out := rfl
@[simp] theorem State.answeringStatus_err : (s.answeringStatus).err = s.err := rfl
@[simp] theorem State.answeringStatus_errcode : (s.answeringStatus).errcode = s.errcode := rfl
@[simp] theorem State.answeringStatus_freeNext : (s.answeringStatus).freeNext = s.freeNext := rfl
@[simp] theorem State.answeringStatus_input : (s.answeringStatus).input = s.input := rfl
@[simp] theorem State.answeringStatus_responses : (s.answeringStatus).responses = s.responses ++ [s.status] := rfl

/-! ## clearError -/

@[simp] theorem State.clearError_cfg : (s.clearError).cfg = s.cfg := rfl
@[simp] theorem State.clearError_tab : (s.clearError).tab = s.tab := rfl
@[simp] theorem State.clearError_tstate : (s.clearError).tstate = s.tstate := rfl
@[simp] theorem State.clearError_cost : (s.clearError).cost = s.cost := rfl
@[simp] theorem State.clearError_slen : (s.clearError).slen = s.slen := rfl
@[simp] theorem State.clearError_salt : (s.clearError).salt = s.salt := rfl
@[simp] theorem State.clearError_plen : (s.clearError).plen = s.plen := rfl
@[simp] theorem State.clearError_pw : (s.clearError).pw = s.pw := rfl
@[simp] theorem State.clearError_dlen : (s.clearError).dlen = s.dlen := rfl
@[simp] theorem State.clearError_d : (s.clearError).d = s.d := rfl
@[simp] theorem State.clearError_olen : (s.clearError).olen = s.olen := rfl
@[simp] theorem State.clearError_out : (s.clearError).out = s.out := rfl
@[simp] theorem State.clearError_err : (s.clearError).err = false := rfl
@[simp] theorem State.clearError_errcode : (s.clearError).errcode = 0 := rfl
@[simp] theorem State.clearError_freeNext : (s.clearError).freeNext = s.freeNext := rfl
@[simp] theorem State.clearError_input : (s.clearError).input = s.input := rfl
@[simp] theorem State.clearError_responses : (s.clearError).responses = s.responses := rfl

/-! ## fail -/

@[simp] theorem State.fail_cfg (k : ErrKind) : (s.fail k).cfg = s.cfg := by
  unfold State.fail; split <;> rfl
@[simp] theorem State.fail_tab (k : ErrKind) : (s.fail k).tab = s.tab := by
  unfold State.fail; split <;> rfl
@[simp] theorem State.fail_tstate (k : ErrKind) : (s.fail k).tstate = s.tstate := by
  unfold State.fail; split <;> rfl
@[simp] theorem State.fail_cost (k : ErrKind) : (s.fail k).cost = s.cost := by
  unfold State.fail; split <;> rfl
@[simp] theorem State.fail_slen (k : ErrKind) : (s.fail k).slen = s.slen := by
  unfold State.fail; split <;> rfl
@[simp] theorem State.fail_salt (k : ErrKind) : (s.fail k).salt = s.salt := by
  unfold State.fail; split <;> rfl
@[simp] theorem State.fail_plen (k : ErrKind) : (s.fail k).plen = s.plen := by
  unfold State.fail; split <;> rfl
@[simp] theorem State.fail_pw (k : ErrKind) : (s.fail k).pw = s.pw := by
  unfold State.fail; split <;> rfl
@[simp] theorem State.fail_dlen (k : ErrKind) : (s.fail k).dlen = s.dlen := by
  unfold State.fail; split <;> rfl
@[simp] theorem State.fail_d (k : ErrKind) : (s.fail k).d = s.d := by
  unfold State.fail; split <;> rfl
@[simp] theorem State.fail_olen (k : ErrKind) : (s.fail k).olen = s.olen := by
  unfold State.fail; split <;> rfl
@[simp] theorem State.fail_out (k : ErrKind) : (s.fail k).out = s.out := by
  unfold State.fail; split <;> rfl
@[simp] theorem State.fail_err (k : ErrKind) : (s.fail k).err = true := by
  by_cases h : s.err <;> simp [State.fail, h]
@[simp] theorem State.fail_errcode (k : ErrKind) : (s.fail k).errcode = if s.err then s.errcode else k.code := by
  by_cases h : s.err <;> simp [State.fail, h]
@[simp] theorem State.fail_freeNext (k : ErrKind) : (s.fail k).freeNext = s.freeNext := by
  unfold State.fail; split <;> rfl
@[simp] theorem State.fail_input (k : ErrKind) : (s.fail k).input = s.input := by
  unfold State.fail; split <;> rfl
@[simp] theorem State.fail_responses (k : ErrKind) : (s.fail k).responses = s.responses := by
  unfold State.fail; split <;> rfl

/-! ## errored -/

@[simp] theorem State.errored_cfg (c : BitVec 4) : (s.errored c).cfg = s.cfg := rfl
@[simp] theorem State.errored_tab (c : BitVec 4) : (s.errored c).tab = s.tab := rfl
@[simp] theorem State.errored_tstate (c : BitVec 4) : (s.errored c).tstate = s.tstate := rfl
@[simp] theorem State.errored_cost (c : BitVec 4) : (s.errored c).cost = s.cost := rfl
@[simp] theorem State.errored_slen (c : BitVec 4) : (s.errored c).slen = s.slen := rfl
@[simp] theorem State.errored_salt (c : BitVec 4) : (s.errored c).salt = s.salt := rfl
@[simp] theorem State.errored_plen (c : BitVec 4) : (s.errored c).plen = s.plen := rfl
@[simp] theorem State.errored_pw (c : BitVec 4) : (s.errored c).pw = s.pw := rfl
@[simp] theorem State.errored_dlen (c : BitVec 4) : (s.errored c).dlen = s.dlen := rfl
@[simp] theorem State.errored_d (c : BitVec 4) : (s.errored c).d = s.d := rfl
@[simp] theorem State.errored_olen (c : BitVec 4) : (s.errored c).olen = s.olen := rfl
@[simp] theorem State.errored_out (c : BitVec 4) : (s.errored c).out = s.out := rfl
@[simp] theorem State.errored_err (c : BitVec 4) : (s.errored c).err = true := rfl
@[simp] theorem State.errored_errcode (c : BitVec 4) : (s.errored c).errcode = if s.err then s.errcode else c := rfl
@[simp] theorem State.errored_freeNext (c : BitVec 4) : (s.errored c).freeNext = s.freeNext := rfl
@[simp] theorem State.errored_input (c : BitVec 4) : (s.errored c).input = s.input := rfl
@[simp] theorem State.errored_responses (c : BitVec 4) : (s.errored c).responses = s.responses := rfl

/-! ## demote -/

@[simp] theorem State.demote_cfg : (s.demote).cfg = s.cfg := by
  unfold State.demote; split <;> rfl
@[simp] theorem State.demote_tab : (s.demote).tab = s.tab := by
  unfold State.demote; split <;> rfl
@[simp] theorem State.demote_tstate : (s.demote).tstate = s.tstate.demoted := by
  cases h : s.tstate <;> simp [State.demote, TState.demoted, h]
@[simp] theorem State.demote_cost : (s.demote).cost = s.cost := by
  unfold State.demote; split <;> rfl
@[simp] theorem State.demote_slen : (s.demote).slen = s.slen := by
  unfold State.demote; split <;> rfl
@[simp] theorem State.demote_salt : (s.demote).salt = s.salt := by
  unfold State.demote; split <;> rfl
@[simp] theorem State.demote_plen : (s.demote).plen = s.plen := by
  unfold State.demote; split <;> rfl
@[simp] theorem State.demote_pw : (s.demote).pw = s.pw := by
  unfold State.demote; split <;> rfl
@[simp] theorem State.demote_dlen : (s.demote).dlen = s.dlen := by
  unfold State.demote; split <;> rfl
@[simp] theorem State.demote_d : (s.demote).d = s.d := by
  unfold State.demote; split <;> rfl
@[simp] theorem State.demote_olen : (s.demote).olen = s.olen := by
  unfold State.demote; split <;> rfl
@[simp] theorem State.demote_out : (s.demote).out = s.out := by
  unfold State.demote; split <;> rfl
@[simp] theorem State.demote_err : (s.demote).err = s.err := by
  unfold State.demote; split <;> rfl
@[simp] theorem State.demote_errcode : (s.demote).errcode = s.errcode := by
  unfold State.demote; split <;> rfl
@[simp] theorem State.demote_freeNext : (s.demote).freeNext = s.freeNext := by
  unfold State.demote; split <;> rfl
@[simp] theorem State.demote_input : (s.demote).input = s.input := by
  unfold State.demote; split <;> rfl
@[simp] theorem State.demote_responses : (s.demote).responses = s.responses := by
  unfold State.demote; split <;> rfl

/-! ## dropResult -/

@[simp] theorem State.dropResult_cfg : (s.dropResult).cfg = s.cfg := rfl
@[simp] theorem State.dropResult_tab : (s.dropResult).tab = s.tab := rfl
@[simp] theorem State.dropResult_tstate : (s.dropResult).tstate = s.tstate := rfl
@[simp] theorem State.dropResult_cost : (s.dropResult).cost = s.cost := rfl
@[simp] theorem State.dropResult_slen : (s.dropResult).slen = s.slen := rfl
@[simp] theorem State.dropResult_salt : (s.dropResult).salt = s.salt := rfl
@[simp] theorem State.dropResult_plen : (s.dropResult).plen = s.plen := rfl
@[simp] theorem State.dropResult_pw : (s.dropResult).pw = s.pw := rfl
@[simp] theorem State.dropResult_dlen : (s.dropResult).dlen = s.dlen := rfl
@[simp] theorem State.dropResult_d : (s.dropResult).d = s.d := rfl
@[simp] theorem State.dropResult_olen : (s.dropResult).olen = 0 := rfl
@[simp] theorem State.dropResult_out : (s.dropResult).out = s.out := rfl
@[simp] theorem State.dropResult_err : (s.dropResult).err = s.err := rfl
@[simp] theorem State.dropResult_errcode : (s.dropResult).errcode = s.errcode := rfl
@[simp] theorem State.dropResult_freeNext : (s.dropResult).freeNext = s.freeNext := rfl
@[simp] theorem State.dropResult_input : (s.dropResult).input = s.input := rfl
@[simp] theorem State.dropResult_responses : (s.dropResult).responses = s.responses := rfl

/-! ## offer -/

@[simp] theorem State.offer_cfg (w : Word) : (s.offer w).cfg = s.cfg := rfl
@[simp] theorem State.offer_tab (w : Word) : (s.offer w).tab = s.tab := rfl
@[simp] theorem State.offer_tstate (w : Word) : (s.offer w).tstate = s.tstate := rfl
@[simp] theorem State.offer_cost (w : Word) : (s.offer w).cost = s.cost := rfl
@[simp] theorem State.offer_slen (w : Word) : (s.offer w).slen = s.slen := rfl
@[simp] theorem State.offer_salt (w : Word) : (s.offer w).salt = s.salt := rfl
@[simp] theorem State.offer_plen (w : Word) : (s.offer w).plen = s.plen := rfl
@[simp] theorem State.offer_pw (w : Word) : (s.offer w).pw = s.pw := rfl
@[simp] theorem State.offer_dlen (w : Word) : (s.offer w).dlen = s.dlen := rfl
@[simp] theorem State.offer_d (w : Word) : (s.offer w).d = s.d := rfl
@[simp] theorem State.offer_olen (w : Word) : (s.offer w).olen = s.olen := rfl
@[simp] theorem State.offer_out (w : Word) : (s.offer w).out = s.out := rfl
@[simp] theorem State.offer_err (w : Word) : (s.offer w).err = s.err := rfl
@[simp] theorem State.offer_errcode (w : Word) : (s.offer w).errcode = s.errcode := rfl
@[simp] theorem State.offer_freeNext (w : Word) : (s.offer w).freeNext = s.freeNext := rfl
@[simp] theorem State.offer_input (w : Word) : (s.offer w).input = .command w :: s.input := rfl
@[simp] theorem State.offer_responses (w : Word) : (s.offer w).responses = s.responses := rfl

/-! ## format -/

@[simp] theorem State.format_cfg : (s.format).cfg = s.cfg := rfl
@[simp] theorem State.format_tab : (s.format).tab = s.tab := rfl
@[simp] theorem State.format_tstate : (s.format).tstate = s.tstate := rfl
@[simp] theorem State.format_cost : (s.format).cost = s.cost := rfl
@[simp] theorem State.format_slen : (s.format).slen = s.slen := rfl
@[simp] theorem State.format_salt : (s.format).salt = s.salt := rfl
@[simp] theorem State.format_plen : (s.format).plen = s.plen := rfl
@[simp] theorem State.format_pw : (s.format).pw = s.pw := rfl
@[simp] theorem State.format_dlen : (s.format).dlen = s.dlen := rfl
@[simp] theorem State.format_d : (s.format).d = s.d := rfl
@[simp] theorem State.format_olen : (s.format).olen = BitVec.ofNat 8 s.cfg.outLen := rfl
@[simp] theorem State.format_out : (s.format).out = s.out.writeN 0 (hashText s.cfg s.cost.toNat s.saltBytes s.d) := rfl
@[simp] theorem State.format_err : (s.format).err = s.err := rfl
@[simp] theorem State.format_errcode : (s.format).errcode = s.errcode := rfl
@[simp] theorem State.format_freeNext : (s.format).freeNext = s.freeNext := rfl
@[simp] theorem State.format_input : (s.format).input = s.input := rfl
@[simp] theorem State.format_responses : (s.format).responses = s.responses := rfl

/-! ## encodeResult -/

@[simp] theorem State.encodeResult_cfg : (s.encodeResult).cfg = s.cfg := rfl
@[simp] theorem State.encodeResult_tab : (s.encodeResult).tab = s.tab := rfl
@[simp] theorem State.encodeResult_tstate : (s.encodeResult).tstate = s.tstate := rfl
@[simp] theorem State.encodeResult_cost : (s.encodeResult).cost = s.cost := rfl
@[simp] theorem State.encodeResult_slen : (s.encodeResult).slen = s.slen := rfl
@[simp] theorem State.encodeResult_salt : (s.encodeResult).salt = s.salt := rfl
@[simp] theorem State.encodeResult_plen : (s.encodeResult).plen = s.plen := rfl
@[simp] theorem State.encodeResult_pw : (s.encodeResult).pw = s.pw := rfl
@[simp] theorem State.encodeResult_dlen : (s.encodeResult).dlen = BitVec.ofNat 16 (reencrypt s.cfg s.tab s.d).2 := rfl
@[simp] theorem State.encodeResult_d : (s.encodeResult).d = (reencrypt s.cfg s.tab s.d).1 := rfl
@[simp] theorem State.encodeResult_olen : (s.encodeResult).olen = BitVec.ofNat 8 s.cfg.outLen := rfl
@[simp] theorem State.encodeResult_out : (s.encodeResult).out = s.out.writeN 0 (hashText s.cfg s.cost.toNat s.saltBytes (reencrypt s.cfg s.tab s.d).1) := rfl
@[simp] theorem State.encodeResult_err : (s.encodeResult).err = s.err := rfl
@[simp] theorem State.encodeResult_errcode : (s.encodeResult).errcode = s.errcode := rfl
@[simp] theorem State.encodeResult_freeNext : (s.encodeResult).freeNext = s.freeNext := rfl
@[simp] theorem State.encodeResult_input : (s.encodeResult).input = s.input := rfl
@[simp] theorem State.encodeResult_responses : (s.encodeResult).responses = s.responses := rfl

/-! ## The updates as records -/

/-- Demotion changes the tag alone. -/
theorem State.demote_eq : s.demote = { s with tstate := s.tstate.demoted } := by
  obtain ⟨_, _, ts, _⟩ := s
  cases ts <;> rfl

/-- The error entry changes the record alone. -/
theorem State.fail_eq (k : ErrKind) : s.fail k = s.errored k.code := by
  cases s with
  | mk cfg tab tstate cost slen salt plen pw dlen d olen out err errcode freeNext input responses =>
    cases err <;> rfl

theorem State.respond_eq (v : Word) : s.respond v = s.answering v := rfl

theorem State.respondStatus_eq : s.respondStatus = s.answeringStatus := rfl

/-- `STATUS` is a view of five registers and of `OVALID`. -/
theorem State.status_congr {s t : State} (h₁ : s.err = t.err) (h₂ : s.errcode = t.errcode)
    (h₃ : s.tstate = t.tstate) (h₄ : s.olen = t.olen) (h₅ : s.cost = t.cost) (h₆ : s.slen = t.slen)
    (h₇ : s.cfg = t.cfg) : s.status = t.status := by
  simp only [State.status, State.ovalid, h₁, h₂, h₃, h₄, h₅, h₆, h₇]

end Sys2Proof.Machine
end

