-- ==== Sys2Proof/Laws/Ops.lean ====
section
/-!
SUPPORT. What the shared operations answer: the answers of a command, input validation, the error codes.
-/

namespace Sys2Proof.Machine

theorem accept_eq (s : State) : accept s = .next s.answeringStatus := rfl

theorem acceptRead_eq (v : Word) (s : State) : acceptRead v s = .next (s.answering v) := rfl

theorem reject_eq (k : ErrKind) (s : State) :
    reject k s = .next (s.errored k.code).answeringStatus := by
  rw [reject, State.fail_eq, State.respondStatus_eq]

theorem rejectRead_eq (k : ErrKind) (s : State) :
    rejectRead k s = .next ((s.errored k.code).answering 0) := by
  rw [rejectRead, State.fail_eq, State.respond_eq]

theorem State.costValid_iff (s : State) :
    s.costValid = true ↔ s.cfg.costMin ≤ s.cost.toNat ∧ s.cost.toNat ≤ s.cfg.costMax := by
  simp [State.costValid]

/-- `Validate` of all three inputs finds no error exactly when they are valid (60 R221). -/
theorem State.validate_all_none (s : State) :
    s.validate { cost := true, salt := true, pw := true } = none ↔ s.InputsValid := by
  constructor
  · intro h
    simp only [State.validate] at h
    split_ifs at h with h₁ h₂ h₃
    simp [State.costValid] at h₁ h₂ h₃
    exact ⟨h₁.1, h₁.2, h₂, by omega⟩
  · rintro ⟨h₁, h₂, h₃, h₄⟩
    have : s.costValid = true := s.costValid_iff.2 ⟨h₁, h₂⟩
    have h₅ : ¬ s.plen.toNat = 0 := by omega
    simp [State.validate, this, h₃, h₅]

/-- `Validate` depends on the parameters, `COST`, `SLEN` and `PLEN` alone (60 R221). -/
theorem State.validate_congr {s t : State} (u : Uses) (h₁ : s.cfg = t.cfg) (h₂ : s.cost = t.cost)
    (h₃ : s.slen = t.slen) (h₄ : s.plen = t.plen) : s.validate u = t.validate u := by
  cases s; cases t
  simp only at h₁ h₂ h₃ h₄
  subst h₁ h₂ h₃ h₄
  rfl

/-- A validation of fewer inputs finds no error either. -/
theorem State.validate_none_of_valid {s : State} (h : s.InputsValid) (u : Uses) :
    s.validate u = none := by
  obtain ⟨h₁, h₂, h₃, h₄⟩ := h
  have : s.costValid = true := s.costValid_iff.2 ⟨h₁, h₂⟩
  have h₅ : ¬ s.plen.toNat = 0 := by omega
  simp [State.validate, this, h₃, h₅]

/-- Every kind but `AllocationFailure` has one of the codes a record may hold, and none has 0
(60 R220). -/
theorem ErrKind.code_legal (k : ErrKind) (h : k ≠ .allocationFailure) :
    k.code ≠ 0 ∧ k.code.toNat ∈ [0, 1, 2, 3, 5, 6, 7, 8] := by
  cases k <;> first | exact absurd rfl h | decide

/-- `Validate` names one of the three input errors. -/
theorem State.validate_some {s : State} {u : Uses} {k : ErrKind} (h : s.validate u = some k) :
    k = .invalidCost ∨ k = .invalidSaltLength ∨ k = .emptyPassword := by
  simp only [State.validate] at h
  split_ifs at h <;> simp_all

@[simp] theorem TState.demoted_ne_final (x : TState) : x.demoted ≠ .final := by
  cases x <;> decide

theorem TState.demoted_eq_seeded {x : TState} : x.demoted = .seeded ↔ x = .seeded := by
  cases x <;> decide

end Sys2Proof.Machine
end

