-- ==== Sys2Proof/Laws/Exec.lean ====
section
/-!
SUPPORT. What a command can do, said once: every command ends in one of five ways, and a command that
changes state does what `Effect` lists for it. Invariants and frames are derived from `exec_cases`.
-/

namespace Sys2Proof.Machine

/-- The five reads that respond a value (30 R97). -/
def Instr.responds : Instr → Bool
  | .rdlen _ | .rdp _ | .rds _ | .rdd _ | .rdout _ => true
  | .nop | .clr | .clrerr | .setcost _ | .setslen _ | .setplen _ | .setdlen _ | .ldsalt _ _
  | .ldpw _ _ | .ldd _ _ | .init | .xkey _ _ | .genkeys | .encblk _ | .encbuf | .encode | .hash
  | .rdstat => false

/-- The state change of a command whose checks pass, with the checks it rests on. -/
inductive Effect (s : State) : Instr → State → Prop where
  | nop : Effect s .nop s
  | clr : Effect s .clr { s with
      cost := 0, slen := 0, plen := 0, dlen := 0, olen := 0, salt := [], pw := [], d := [], out := [],
      tab := Tables.free s.freeNext, freeNext := s.freeNext + 1, tstate := .uninit }
  | clrerr : Effect s .clrerr { s with err := false, errcode := 0 }
  | setcost (b : Byte) : Effect s (.setcost b) { s with cost := b, tstate := s.tstate.demoted }
  | setslen (b : Byte) : Effect s (.setslen b) { s with slen := b, tstate := s.tstate.demoted }
  | setplen (a : Half) (h : a.toNat ≤ s.cfg.pwMax) :
      Effect s (.setplen a) { s with plen := a, tstate := s.tstate.demoted }
  | setdlen (a : Half) (h : a.toNat ≤ s.cfg.dMax) : Effect s (.setdlen a) { s with dlen := a }
  | ldsalt (a : Half) (b : Byte) (h : a.toNat < 16) : Effect s (.ldsalt a b)
      { s with salt := s.salt.write a.toNat b, tstate := s.tstate.demoted }
  | ldpw (a : Half) (b : Byte) (h : a.toNat < s.cfg.pwMax) : Effect s (.ldpw a b)
      { s with pw := s.pw.write a.toNat b, tstate := s.tstate.demoted }
  | ldd (a : Half) (b : Byte) (h : a.toNat < s.cfg.dMax) : Effect s (.ldd a b)
      { s with d := s.d.write a.toNat b }
  | init : Effect s .init { s with tab := initTables s.cfg, tstate := .seeded }
  | xkey (k : KeySource) (x : SaltSource) (h : s.tstate ≠ .uninit)
      (h₁ : (k = .salt ∨ x = .real) → s.slen.toNat = 16) (h₂ : k = .password → s.plen.toNat ≠ 0) :
      Effect s (.xkey k x) { s with
        tab := expandKey s.tab (s.keyBytes k) (s.keyLen k) (s.mixSalt x), tstate := .mixed }
  | genkeys (h : s.tstate = .seeded) (h₁ : s.InputsValid) :
      Effect s .genkeys { s with tab := s.stretch s.tab, tstate := .final }
  | encblk (a : Half) (h : s.tstate ≠ .uninit) (h₁ : 8 * a.toNat + 8 ≤ s.dlen.toNat) :
      Effect s (.encblk a) { s with d := encD s.tab s.d a.toNat }
  | encbuf (h : s.tstate ≠ .uninit) : Effect s .encbuf { s with
      d := (encryptBuffer s.tab s.d s.dlen.toNat).1
      dlen := BitVec.ofNat 16 (encryptBuffer s.tab s.d s.dlen.toNat).2 }
  | encode (h : s.tstate = .final)
      (h₁ : s.validate { cost := true, salt := true, pw := false } = none) :
      Effect s .encode s.encodeResult
  | hash (h : s.InputsValid) : Effect s .hash
      ({ s with tab := s.stretch (initTables s.cfg), tstate := .final } : State).encodeResult
  | rdstat : Effect s .rdstat s

/-- How a command can end: it changes state and responds `STATUS`; it fails, with the error record
written (and `OLEN` set to 0 by ENCODE and HASH) and `STATUS` or 0 responded; or it reads a value. -/
inductive Ending (s : State) (i : Instr) : Result → Prop where
  | changed {u : State} (h : Effect s i u) (h₁ : Instr.responds i = false) :
      Ending s i (.next u.answeringStatus)
  | failed (k : ErrKind) (hk : k ≠ .allocationFailure) (h : Instr.responds i = false)
      (h₁ : i ≠ .encode ∧ i ≠ .hash) : Ending s i (.next (s.errored k.code).answeringStatus)
  | dropped (k : ErrKind) (hk : k ≠ .allocationFailure) (h : i = .encode ∨ i = .hash) :
      Ending s i (.next (s.dropResult.errored k.code).answeringStatus)
  | readFailed (k : ErrKind) (hk : k ≠ .allocationFailure) (h : Instr.responds i = true) :
      Ending s i (.next ((s.errored k.code).answering 0))
  | read (v : Word) (h : Instr.responds i = true) : Ending s i (.next (s.answering v))

theorem ending_reject {s : State} {i : Instr} (k : ErrKind) (hk : k ≠ .allocationFailure)
    (h : Instr.responds i = false) (h₁ : i ≠ .encode ∧ i ≠ .hash) : Ending s i (reject k s) := by
  rw [reject_eq]; exact .failed k hk h h₁

theorem ending_drop {s : State} {i : Instr} (k : ErrKind) (hk : k ≠ .allocationFailure)
    (h : i = .encode ∨ i = .hash) : Ending s i (reject k s.dropResult) := by
  rw [reject_eq]; exact .dropped k hk h

theorem ending_rejectRead {s : State} {i : Instr} (k : ErrKind) (hk : k ≠ .allocationFailure)
    (h : Instr.responds i = true) : Ending s i (rejectRead k s) := by
  rw [rejectRead_eq]; exact .readFailed k hk h

theorem ending_accept {s u : State} {i : Instr} (h : Effect s i u)
    (h₁ : Instr.responds i = false) : Ending s i (accept u) := .changed h h₁

theorem ending_demote {s u : State} {i : Instr}
    (h : Effect s i { u with tstate := u.tstate.demoted }) (h₁ : Instr.responds i = false) :
    Ending s i (accept u.demote) := by
  rw [State.demote_eq]; exact .changed h h₁

theorem ErrKind.ne_allocation_of_validate {s : State} {u : Uses} {k : ErrKind}
    (h : s.validate u = some k) : k ≠ .allocationFailure := by
  rcases State.validate_some h with rfl | rfl | rfl <;> decide

/-- What every command can do. -/
theorem exec_ending (i : Instr) (s : State) : Ending s i (exec i s) := by
  cases i with
  | nop => exact ending_accept .nop rfl
  | clr => exact ending_accept .clr rfl
  | clrerr => exact ending_accept .clrerr rfl
  | setcost b => exact ending_demote (.setcost b) rfl
  | setslen b => exact ending_demote (.setslen b) rfl
  | setplen a =>
    simp only [exec, execSetplen]
    split_ifs with h
    · exact ending_reject _ (by decide) rfl (by simp)
    · exact ending_demote (.setplen a (by omega)) rfl
  | setdlen a =>
    simp only [exec, execSetdlen]
    split_ifs with h
    · exact ending_reject _ (by decide) rfl (by simp)
    · exact ending_accept (.setdlen a (by omega)) rfl
  | ldsalt a b =>
    simp only [exec, execLdsalt]
    split_ifs with h
    · exact ending_reject _ (by decide) rfl (by simp)
    · exact ending_demote (.ldsalt a b (by omega)) rfl
  | ldpw a b =>
    simp only [exec, execLdpw]
    split_ifs with h
    · exact ending_reject _ (by decide) rfl (by simp)
    · exact ending_demote (.ldpw a b (by omega)) rfl
  | ldd a b =>
    simp only [exec, execLdd]
    split_ifs with h
    · exact ending_reject _ (by decide) rfl (by simp)
    · exact ending_accept (.ldd a b (by omega)) rfl
  | init => exact ending_accept .init rfl
  | xkey k x =>
    simp only [exec, execXkey]
    split_ifs with h h₁ h₂
    · exact ending_reject _ (by decide) rfl (by simp)
    · exact ending_reject _ (by decide) rfl (by simp)
    · exact ending_reject _ (by decide) rfl (by simp)
    · exact ending_accept
        (.xkey k x h (fun e => by_contra fun n => h₁ ⟨e, n⟩) fun e n => h₂ ⟨e, n⟩) rfl
  | genkeys =>
    simp only [exec, execGenkeys]
    split_ifs with h
    · exact ending_reject _ (by decide) rfl (by simp)
    · split
      · exact ending_reject _ (ErrKind.ne_allocation_of_validate ‹_›) rfl (by simp)
      · exact ending_accept (.genkeys (not_not.1 h) (s.validate_all_none.1 ‹_›)) rfl
  | encblk a =>
    simp only [exec, execEncblk]
    split_ifs with h h₁
    · exact ending_reject _ (by decide) rfl (by simp)
    · exact ending_accept (.encblk a h (by simpa [State.blockInside] using h₁)) rfl
    · exact ending_reject _ (by decide) rfl (by simp)
  | encbuf =>
    simp only [exec, execEncbuf]
    split_ifs with h
    · exact ending_reject _ (by decide) rfl (by simp)
    · exact ending_accept (.encbuf h) rfl
  | encode =>
    simp only [exec, execEncode]
    split_ifs with h
    · exact ending_drop _ (by decide) (.inl rfl)
    · split
      · exact ending_drop _ (ErrKind.ne_allocation_of_validate ‹_›) (.inl rfl)
      · exact ending_accept (.encode (not_not.1 h) ‹_›) rfl
  | hash =>
    simp only [exec, execHash]
    split
    · exact ending_drop _ (ErrKind.ne_allocation_of_validate ‹_›) (.inr rfl)
    · exact ending_accept (.hash (s.validate_all_none.1 ‹_›)) rfl
  | rdstat => exact ending_accept .rdstat rfl
  | rdlen a =>
    simp only [exec, execRdlen]
    split
    · exact .read _ rfl
    · exact ending_rejectRead _ (by decide) rfl
  | rdp a =>
    simp only [exec, execRdp]
    split_ifs
    · exact ending_rejectRead _ (by decide) rfl
    · exact .read _ rfl
    · exact ending_rejectRead _ (by decide) rfl
  | rds a =>
    simp only [exec, execRds]
    split_ifs
    · exact ending_rejectRead _ (by decide) rfl
    · exact .read _ rfl
    · exact ending_rejectRead _ (by decide) rfl
  | rdd a =>
    simp only [exec, execRdd]
    split_ifs
    · exact ending_rejectRead _ (by decide) rfl
    · exact .read _ rfl
  | rdout a =>
    simp only [exec, execRdout]
    split_ifs
    · exact ending_rejectRead _ (by decide) rfl
    · exact .read _ rfl

/-- The five ways a command can end, for case analysis: `exec i s` is the outcome of one of them. -/
theorem exec_cases (i : Instr) (s : State) :
    (∃ u, exec i s = .next u.answeringStatus ∧ Effect s i u ∧ Instr.responds i = false) ∨
    (∃ k, exec i s = .next (s.errored (ErrKind.code k)).answeringStatus ∧ k ≠ .allocationFailure ∧
      Instr.responds i = false ∧ i ≠ .encode ∧ i ≠ .hash) ∨
    (∃ k, exec i s = .next (s.dropResult.errored (ErrKind.code k)).answeringStatus ∧
      k ≠ .allocationFailure ∧ (i = .encode ∨ i = .hash)) ∨
    (∃ k, exec i s = .next ((s.errored (ErrKind.code k)).answering 0) ∧ k ≠ .allocationFailure ∧
      Instr.responds i = true) ∨
    (∃ v, exec i s = .next (s.answering v) ∧ Instr.responds i = true) := by
  have h := exec_ending i s
  generalize exec i s = r at h
  cases h with
  | changed h h₁ => exact .inl ⟨_, rfl, h, h₁⟩
  | failed k hk h h₁ => exact .inr (.inl ⟨k, rfl, hk, h, h₁⟩)
  | dropped k hk h => exact .inr (.inr (.inl ⟨k, rfl, hk, h⟩))
  | readFailed k hk h => exact .inr (.inr (.inr (.inl ⟨k, rfl, hk, h⟩)))
  | read v h => exact .inr (.inr (.inr (.inr ⟨v, rfl, h⟩)))

/-! ## The commands of the key schedule and of the encoder when their checks pass -/

theorem exec_xkey_completes {s : State} (k : KeySource) (x : SaltSource) (h : s.tstate ≠ .uninit)
    (h₁ : (k = .salt ∨ x = .real) → s.slen.toNat = 16) (h₂ : k = .password → s.plen.toNat ≠ 0) :
    exec (.xkey k x) s = .next ({ s with
      tab := expandKey s.tab (s.keyBytes k) (s.keyLen k) (s.mixSalt x)
      tstate := .mixed } : State).answeringStatus := by
  show execXkey k x s = _
  rw [execXkey, if_neg h, if_neg fun e => e.2 (h₁ e.1), if_neg fun e => h₂ e.1 e.2]
  rfl

theorem exec_genkeys_completes {s : State} (h : s.tstate = .seeded) (h₁ : s.InputsValid) :
    exec .genkeys s =
      .next ({ s with tab := s.stretch s.tab, tstate := .final } : State).answeringStatus := by
  show execGenkeys s = _
  rw [execGenkeys, if_neg (not_not.2 h), State.validate_none_of_valid h₁]
  rfl

theorem exec_encode_completes {s : State} (h : s.tstate = .final)
    (h₁ : s.validate { cost := true, salt := true, pw := false } = none) :
    exec .encode s = .next s.encodeResult.answeringStatus := by
  show execEncode s = _
  rw [execEncode, if_neg (not_not.2 h), h₁]
  rfl

theorem exec_hash_completes {s : State} (h : s.InputsValid) :
    exec .hash s = .next (({ s with
      tab := s.stretch (initTables s.cfg), tstate := .final } : State).encodeResult).answeringStatus := by
  show execHash s = _
  rw [execHash, State.validate_none_of_valid h]
  rfl

/-- `Reencrypt(); Format()` changes the two buffers and their lengths alone. -/
theorem State.encodeResult_eq (s : State) : s.encodeResult = { s with
    d := (reencrypt s.cfg s.tab s.d).1
    dlen := BitVec.ofNat 16 (reencrypt s.cfg s.tab s.d).2
    out := s.out.writeN 0
      (hashText s.cfg s.cost.toNat s.saltBytes (reencrypt s.cfg s.tab s.d).1)
    olen := BitVec.ofNat 8 s.cfg.outLen } := rfl

end Sys2Proof.Machine
end

