-- ==== Sys2Proof/Laws/KeySchedule.lean ====
section
/-!
SUPPORT. The tables by linear index (spec/10_state.md R23), and what seeding, the key xor and one
iteration of each fill loop write (spec/42_key_schedule.md R150, R152, R154, R155).
-/

namespace Sys2Proof.Machine

theorem Tables.word_p (x : Tables) (i : Fin 18) : x.word i = x.p.get i := by
  simp [Tables.word]

theorem Tables.word_s (x : Tables) (b : Fin 4) (j : Fin 256) :
    x.word (18 + 256 * b + j) = (x.s.get b).get j := by
  have h₁ : ¬ 18 + 256 * b.val + j.val < 18 := by omega
  have h₂ : 18 + 256 * b.val + j.val < 1042 := by omega
  rw [Tables.word, dif_neg h₁, dif_pos h₂]
  congr
  · omega
  · omega

/-- Tables with the same words are the same. -/
theorem Tables.ext_word {x y : Tables} (h : ∀ n < 1042, x.word n = y.word n) : x = y := by
  have hp : x.p = y.p := Bank.ext_get fun i => by
    rw [← x.word_p, ← y.word_p, h i (by omega)]
  have hs : x.s = y.s := Bank.ext_get fun b => Bank.ext_get fun j => by
    rw [← x.word_s, ← y.word_s, h _ (by omega)]
  cases x; cases y
  simp only at hp hs
  rw [hp, hs]

theorem Tables.word_of_ge (x : Tables) {n : Nat} (h : 1042 ≤ n) : x.word n = 0 := by
  rw [Tables.word, dif_neg (by omega), dif_neg (by omega)]

theorem Tables.word_set_p (x : Tables) (i : Fin 18) (v : Word) (n : Nat) :
    ({ x with p := x.p.set i v } : Tables).word n = if n = i.val then v else x.word n := by
  unfold Tables.word
  split_ifs with h₁ h₂ h₃
  · subst h₂; exact Bank.get_set_self _ _ _
  · exact Bank.get_set_ne _ _ fun e => h₂ (by rw [e])
  · omega
  · rfl
  · omega
  · rfl

theorem Tables.word_set_s (x : Tables) (b : Fin 4) (j : Fin 256) (v : Word) (n : Nat) :
    ({ x with s := x.s.set b ((x.s.get b).set j v) } : Tables).word n =
      if n = 18 + 256 * b.val + j.val then v else x.word n := by
  by_cases hn : n < 18
  · rw [if_neg (by omega)]
    simp only [Tables.word, hn, dif_pos]
  by_cases hn' : n < 1042
  · obtain ⟨b', j', rfl⟩ : ∃ (b' : Fin 4) (j' : Fin 256), n = 18 + 256 * b'.val + j'.val :=
      ⟨⟨(n - 18) / 256, by omega⟩, ⟨(n - 18) % 256, by omega⟩, by dsimp only; omega⟩
    rw [Tables.word_s, Tables.word_s, Bank.get_set]
    by_cases hb : b = b'
    · subst hb
      rw [if_pos rfl, Bank.get_set]
      by_cases hj : j = j'
      · subst hj; simp
      · have : j'.val ≠ j.val := fun e => hj (Fin.ext e.symm)
        rw [if_neg hj, if_neg (by omega)]
    · have : b'.val ≠ b.val := fun e => hb (Fin.ext e.symm)
      rw [if_neg hb, if_neg (by omega)]
  · rw [Tables.word_of_ge _ (by omega), Tables.word_of_ge _ (by omega), if_neg (by omega)]

/-- Seeding, by linear index (R150, 10 R23). -/
theorem initTables_word (c : Config) (n : Fin 1042) : (initTables c).word n = c.seed.get n := by
  by_cases h : n.val < 18
  · have := (initTables c).word_p ⟨n, h⟩
    simp only [initTables, Bank.get_tabulate] at this
    simpa [initTables] using this
  · have := (initTables c).word_s ⟨(n - 18) / 256, by omega⟩ ⟨(n - 18) % 256, by omega⟩
    simp only [initTables, Bank.get_tabulate] at this
    have e : 18 + 256 * ((n.val - 18) / 256) + (n.val - 18) % 256 = n.val := by omega
    simp only [e] at this
    exact this

/-- Step 1 of a pass, by linear index (R152). -/
theorem keyXor_word (x : Tables) (key : List Byte) (klen n : Nat) :
    (keyXor x key klen).word n = if n < 18 then x.word n ^^^ keyWord key klen n else x.word n := by
  unfold Tables.word
  split_ifs <;> simp [keyXor]

/-- The running block after one more encryption (R153). -/
def Pass.nextBlock (salt16 : List Byte) (x : Pass) : Block :=
  encryptBlock64 x.tab (x.blk ^^^ saltHalf salt16 (x.k % 2))

theorem mix_blk (salt16 : List Byte) (x : Pass) : (mix salt16 x).1.blk = x.nextBlock salt16 := rfl

theorem mix_tab (salt16 : List Byte) (x : Pass) : (mix salt16 x).1.tab = x.tab := rfl

theorem mix_k (salt16 : List Byte) (x : Pass) : (mix salt16 x).1.k = x.k + 1 := rfl

theorem splitUint64_join (l r : Word) : splitUint64 (joinUint64 (l, r)) = (l, r) := by
  have hl := l.isLt
  have hr := r.isLt
  have e : (joinUint64 (l, r)).toNat = l.toNat * 2 ^ 32 + r.toNat := by
    show (l ++ r).toNat = _
    rw [BitVec.toNat_append, ← Nat.shiftLeft_add_eq_or_of_lt hr, Nat.shiftLeft_eq]
  refine Prod.ext (BitVec.eq_of_toNat_eq ?_) (BitVec.eq_of_toNat_eq ?_) <;>
    simp only [splitUint64, toNat_extract, e] <;> omega

/-- The two halves Mix returns are those of the new running block (R153). -/
theorem mix_halves (salt16 : List Byte) (x : Pass) :
    (mix salt16 x).2 = splitUint64 (x.nextBlock salt16) := by
  rw [Pass.nextBlock, encryptBlock64, splitUint64_join]
  rfl

/-- What one encryption of a pass leaves: the block, the counter, and the two words it wrote. -/
structure Advances (salt16 : List Byte) (x y : Pass) : Prop where
  blk : y.blk = x.nextBlock salt16
  k : y.k = x.k + 1
  word : ∀ n, y.tab.word n =
    if n = 2 * x.k then (x.nextBlock salt16).extractLsb' 32 32
    else if n = 2 * x.k + 1 then (x.nextBlock salt16).extractLsb' 0 32
    else x.tab.word n

/-- Two words of the P-array written, the second last. -/
theorem Tables.word_set_p_twice (x : Tables) (i j : Fin 18) (v w : Word) (n : Nat) :
    ({ x with p := (x.p.set i v).set j w } : Tables).word n =
      if n = j.val then w else if n = i.val then v else x.word n := by
  have h := Tables.word_set_p { x with p := x.p.set i v } j w n
  rw [← Tables.word_set_p x i v n]
  exact h

/-- Two words of one box written, the second last. -/
theorem Tables.word_set_s_twice (x : Tables) (b : Fin 4) (i j : Fin 256) (v w : Word) (n : Nat) :
    ({ x with s := x.s.set b (((x.s.get b).set i v).set j w) } : Tables).word n =
      if n = 18 + 256 * b.val + j.val then w
      else if n = 18 + 256 * b.val + i.val then v else x.word n := by
  have e : x.s.set b (((x.s.get b).set i v).set j w) =
      (x.s.set b ((x.s.get b).set i v)).set b
        (((x.s.set b ((x.s.get b).set i v)).get b).set j w) := by
    refine Bank.ext_get fun k => ?_
    by_cases hk : b = k
    · subst hk; simp
    · simp [Bank.get_set, hk]
  have h := Tables.word_set_s { x with s := x.s.set b ((x.s.get b).set i v) } b j w n
  rw [← Tables.word_set_s x b i v n, e]
  exact h

/-- Iteration `m` of the P fill is encryption `k = m` (R154). -/
theorem fillPStep_advances (salt16 : List Byte) {x : Pass} (m : Fin 9) (h : x.k = m) :
    Advances salt16 x (fillPStep salt16 x m) := by
  refine ⟨rfl, rfl, fun n => ?_⟩
  refine (Tables.word_set_p_twice x.tab _ _ _ _ n).trans ?_
  rw [mix_halves, h]
  simp only [splitUint64]
  split_ifs <;> first | omega | rfl

/-- Iteration `j` of the fill of box `b` is encryption `k = 9 + 128*b + j` (R155). -/
theorem fillSStep_advances (salt16 : List Byte) {x : Pass} (b : Fin 4) (j : Fin 128)
    (h : x.k = 9 + 128 * b + j) : Advances salt16 x (fillSStep salt16 b x j) := by
  refine ⟨rfl, rfl, fun n => ?_⟩
  refine (Tables.word_set_s_twice x.tab b _ _ _ _ n).trans ?_
  rw [mix_halves, h]
  simp only [splitUint64]
  split_ifs <;> first | omega | rfl

/-- Step 3 of a pass, box by box (R155). -/
theorem fillS_eq (salt16 : List Byte) (x : Pass) : fillS salt16 x =
    fillBox salt16 (fillBox salt16 (fillBox salt16 (fillBox salt16 x 0) 1) 2) 3 := by
  unfold fillS
  generalize fillBox salt16 = f
  rfl

/-- The two halves of the salt as blocks (R153). -/
theorem saltHalf_eq (salt : List Byte) (h : salt.length = 16) {i : Nat} (hi : i < 2) :
    saltHalf salt i = octet fun x => salt.getD (8 * i + x) 0 := by
  rw [saltHalf, ← bytesToBlock_eight]
  congr 1
  apply List.ext_getElem
  · simp
    omega
  · intro k h₁ h₂
    simp at h₂
    have : k < 8 := by omega
    simp only [List.getElem_take, List.getElem_drop]
    interval_cases k <;> simp <;> rw [List.getElem?_eq_getElem (by omega)] <;> simp

end Sys2Proof.Machine
end

