-- ==== Sys2Proof/Laws/PerInstr.lean ====
section
/-!
SUPPORT. The family of statements made per command: the encoding of every command is legal
(spec/30_encoding.md R93 to R96, R101), judged by the predicates of WellFormed, which do not mention the
decoder.
-/

namespace Sys2Proof.Laws.EncodeWellFormed

/-- The word of `i` passes the four checks of a legal encoding. -/
def Statement (i : Instr) : Prop := (Fields.ofWord (encode i)).wf = true

/-- The four checks of the fields of `i`, from its opcode and unused fields. -/
theorem of_fields {i : Instr}
    (h : Fields.wf { op := i.opcode, a := i.fieldA, b := i.fieldB } = true) : Statement i := by
  rw [Statement, ofWord_encode]
  exact h

theorem nop : Statement .nop := of_fields (by decide)

theorem clr : Statement .clr := of_fields (by decide)

theorem clrerr : Statement .clrerr := of_fields (by decide)

theorem setcost (b : Byte) : Statement (.setcost b) := of_fields (by
  simp [Fields.wf, Fields.opLegal, Fields.aLegal, Fields.bLegal, Fields.xkeyLegal, Instr.opcode, Instr.fieldA,
    Instr.fieldB, Fields.opcodes, Fields.opcodesUsingA, Fields.opcodesUsingB])

theorem setslen (b : Byte) : Statement (.setslen b) := of_fields (by
  simp [Fields.wf, Fields.opLegal, Fields.aLegal, Fields.bLegal, Fields.xkeyLegal, Instr.opcode, Instr.fieldA,
    Instr.fieldB, Fields.opcodes, Fields.opcodesUsingA, Fields.opcodesUsingB])

theorem setplen (a : Half) : Statement (.setplen a) := of_fields (by
  simp [Fields.wf, Fields.opLegal, Fields.aLegal, Fields.bLegal, Fields.xkeyLegal, Instr.opcode, Instr.fieldA,
    Instr.fieldB, Fields.opcodes, Fields.opcodesUsingA, Fields.opcodesUsingB])

theorem setdlen (a : Half) : Statement (.setdlen a) := of_fields (by
  simp [Fields.wf, Fields.opLegal, Fields.aLegal, Fields.bLegal, Fields.xkeyLegal, Instr.opcode, Instr.fieldA,
    Instr.fieldB, Fields.opcodes, Fields.opcodesUsingA, Fields.opcodesUsingB])

theorem ldsalt (a : Half) (b : Byte) : Statement (.ldsalt a b) := of_fields (by
  simp [Fields.wf, Fields.opLegal, Fields.aLegal, Fields.bLegal, Fields.xkeyLegal, Instr.opcode, Instr.fieldA,
    Instr.fieldB, Fields.opcodes, Fields.opcodesUsingA, Fields.opcodesUsingB])

theorem ldpw (a : Half) (b : Byte) : Statement (.ldpw a b) := of_fields (by
  simp [Fields.wf, Fields.opLegal, Fields.aLegal, Fields.bLegal, Fields.xkeyLegal, Instr.opcode, Instr.fieldA,
    Instr.fieldB, Fields.opcodes, Fields.opcodesUsingA, Fields.opcodesUsingB])

theorem ldd (a : Half) (b : Byte) : Statement (.ldd a b) := of_fields (by
  simp [Fields.wf, Fields.opLegal, Fields.aLegal, Fields.bLegal, Fields.xkeyLegal, Instr.opcode, Instr.fieldA,
    Instr.fieldB, Fields.opcodes, Fields.opcodesUsingA, Fields.opcodesUsingB])

theorem init : Statement .init := of_fields (by decide)

theorem xkey (k : KeySource) (x : SaltSource) : Statement (.xkey k x) :=
  of_fields (by cases k <;> cases x <;> decide)

theorem genkeys : Statement .genkeys := of_fields (by decide)

theorem encblk (a : Half) : Statement (.encblk a) := of_fields (by
  simp [Fields.wf, Fields.opLegal, Fields.aLegal, Fields.bLegal, Fields.xkeyLegal, Instr.opcode, Instr.fieldA,
    Instr.fieldB, Fields.opcodes, Fields.opcodesUsingA, Fields.opcodesUsingB])

theorem encbuf : Statement .encbuf := of_fields (by decide)

theorem encode : Statement .encode := of_fields (by decide)

theorem hash : Statement .hash := of_fields (by decide)

theorem rdstat : Statement .rdstat := of_fields (by decide)

theorem rdlen (a : Half) : Statement (.rdlen a) := of_fields (by
  simp [Fields.wf, Fields.opLegal, Fields.aLegal, Fields.bLegal, Fields.xkeyLegal, Instr.opcode, Instr.fieldA,
    Instr.fieldB, Fields.opcodes, Fields.opcodesUsingA, Fields.opcodesUsingB])

theorem rdp (a : Half) : Statement (.rdp a) := of_fields (by
  simp [Fields.wf, Fields.opLegal, Fields.aLegal, Fields.bLegal, Fields.xkeyLegal, Instr.opcode, Instr.fieldA,
    Instr.fieldB, Fields.opcodes, Fields.opcodesUsingA, Fields.opcodesUsingB])

theorem rds (a : Half) : Statement (.rds a) := of_fields (by
  simp [Fields.wf, Fields.opLegal, Fields.aLegal, Fields.bLegal, Fields.xkeyLegal, Instr.opcode, Instr.fieldA,
    Instr.fieldB, Fields.opcodes, Fields.opcodesUsingA, Fields.opcodesUsingB])

theorem rdd (a : Half) : Statement (.rdd a) := of_fields (by
  simp [Fields.wf, Fields.opLegal, Fields.aLegal, Fields.bLegal, Fields.xkeyLegal, Instr.opcode, Instr.fieldA,
    Instr.fieldB, Fields.opcodes, Fields.opcodesUsingA, Fields.opcodesUsingB])

theorem rdout (a : Half) : Statement (.rdout a) := of_fields (by
  simp [Fields.wf, Fields.opLegal, Fields.aLegal, Fields.bLegal, Fields.xkeyLegal, Instr.opcode, Instr.fieldA,
    Instr.fieldB, Fields.opcodes, Fields.opcodesUsingA, Fields.opcodesUsingB])

end Sys2Proof.Laws.EncodeWellFormed
end

