-- ==== Sys2Proof/Laws/Safety.lean ====
section
/-!
SUPPORT. The terms of the invariant: the check of the parameters, the value of the status word, the
grammar of a formatted hash string, and the invariant under updates that do not touch what it speaks of.
-/

namespace Sys2Proof.Machine

/-- The check of the parameters evaluates the constraints (00 R5 to R11). -/
theorem Config.check_iff (c : Config) : c.check = true ↔ c.Wf := by
  constructor
  · intro h
    simp only [Config.check, Bool.and_eq_true, decide_eq_true_eq] at h
    obtain ⟨⟨⟨⟨⟨⟨⟨⟨⟨⟨⟨⟨h₁, h₂⟩, h₃⟩, h₄⟩, h₅⟩, h₆⟩, h₇⟩, h₈⟩, h₉⟩, h₁₀⟩, h₁₁⟩, h₁₂⟩, h₁₃⟩ := h
    exact ⟨h₁, h₂, h₃, h₄, h₅, h₆, h₇, h₈, h₉, h₁₀, h₁₁, h₁₂, h₁₃⟩
  · rintro ⟨h₁, h₂, h₃, h₄, h₅, h₆, h₇, h₈, h₉, h₁₀, h₁₁, h₁₂, h₁₃⟩
    simp only [Config.check, Bool.and_eq_true, decide_eq_true_eq]
    exact ⟨⟨⟨⟨⟨⟨⟨⟨⟨⟨⟨⟨h₁, h₂⟩, h₃⟩, h₄⟩, h₅⟩, h₆⟩, h₇⟩, h₈⟩, h₉⟩, h₁₀⟩, h₁₁⟩, h₁₂⟩, h₁₃⟩

/-- The default parameters meet their constraints. -/
theorem Config.default_wf : Config.default.Wf := (Config.check_iff _).1 (by decide +kernel)

/-- `OUT_LEN` fits the register `OLEN` (10 R31). -/
theorem Config.outLen_lt {c : Config} (h : c.Wf) : 7 ≤ c.outLen ∧ c.outLen < 62 := by
  have := h.saltW_le
  have := h.hashW_le
  simp only [Config.outLen]
  omega

theorem toNat_append_bits {m n : Nat} (x : BitVec m) (y : BitVec n) :
    (x ++ y).toNat = x.toNat * 2 ^ n + y.toNat := by
  rw [BitVec.toNat_append, ← Nat.shiftLeft_add_eq_or_of_lt y.isLt, Nat.shiftLeft_eq]

/-- The value of `STATUS` (10 R29). -/
theorem State.toNat_status (s : State) : s.status.toNat =
    s.err.toNat + 2 * s.errcode.toNat + 32 * s.tstate.bits.toNat + 128 * s.ovalid.toNat +
      256 * s.cost.toNat + 65536 * s.slen.toNat := by
  simp only [State.status, toNat_append_bits, BitVec.toNat_ofBool]
  simp
  omega

/-- A byte of `OUT` after Format is the character of the text (43 R174). -/
theorem read_hashText {c : Config} (hc : c.Wf) {out : Memory} (ho : out.wf) (cost : Nat)
    {salt : List Byte} (hs : salt.length = 16) (d : Memory) {k : Nat} (hk : k < c.outLen) :
    (out.writeN 0 (hashText c cost salt d)).read k =
      (hashText c cost salt d)[k]'(by rw [length_hashText c hc cost hs]; exact hk) := by
  have hl := length_hashText c hc cost hs d
  have := Memory.read_writeN_inside ho (i := 0) (hashText c cost salt d) (k := k) (by omega)
  simpa using this

/-- The fields of the text are characters of the alphabet (43 R173, R174). -/
theorem mem_fields (c : Config) (salt : List Byte) (d : Memory) :
    ∀ x ∈ saltField c salt ++ hashField c d, x ∈ c.alphabet.toList := by
  intro x hx
  rcases List.mem_append.1 hx with h | h
  · exact b64_mem _ _ _ (List.mem_of_mem_take h)
  · exact b64_mem _ _ _ (List.mem_of_mem_take h)

/-- What Format writes is of the grammar (43 R174). -/
theorem outGrammar_hashText {c : Config} (hc : c.Wf) {out : Memory} (ho : out.wf) {cost : Nat}
    (hcost : cost ≤ 99) {salt : List Byte} (hs : salt.length = 16) (d : Memory) :
    OutGrammar c (out.writeN 0 (hashText c cost salt d)) := by
  have hl := length_hashText c hc cost hs d
  have hr := fun {k : Nat} (hk : k < c.outLen) => read_hashText hc ho cost hs d hk
  have hol := (Config.outLen_lt hc).1
  constructor
  · simp only [Memory.readN, List.range, List.range.loop, List.map, Nat.zero_add]
    rw [hr (k := 0) (by omega), hr (k := 1) (by omega), hr (k := 2) (by omega),
      hr (k := 3) (by omega)]
    rfl
  · intro i h₄ h₆
    rw [hr (by omega)]
    have : i = 4 ∨ i = 5 := by omega
    rcases this with rfl | rfl
    · have : (hashText c cost salt d)[4]'(by omega) = BitVec.ofNat 8 (0x30 + cost / 10) := rfl
      rw [this, BitVec.toNat_ofNat]
      omega
    · have : (hashText c cost salt d)[5]'(by omega) = BitVec.ofNat 8 (0x30 + cost % 10) := rfl
      rw [this, BitVec.toNat_ofNat]
      omega
  · rw [hr (k := 6) (by omega)]
    rfl
  · intro i h₇ hi
    rw [hr hi]
    obtain ⟨j, rfl⟩ : ∃ j, i = 7 + j := ⟨i - 7, by omega⟩
    have e : hashText c cost salt d =
        ([0x24, 0x32, 0x61, 0x24] ++ costField cost ++ [0x24]) ++
          (saltField c salt ++ hashField c d) := by simp [hashText]
    refine mem_fields c salt d _ ?_
    simp only [e]
    rw [List.getElem_append_right (by simp [costField])]
    exact List.getElem_mem _

/-- The invariant speaks of the parameters, the tables, the registers and the byte spaces. -/
theorem State.Inv.congr {s t : State} (h : s.Inv) (h₁ : t.cfg = s.cfg) (h₂ : t.tab = s.tab)
    (h₃ : t.tstate = s.tstate) (h₄ : t.cost = s.cost) (h₅ : t.slen = s.slen) (h₆ : t.salt = s.salt)
    (h₇ : t.plen = s.plen) (h₈ : t.pw = s.pw) (h₉ : t.dlen = s.dlen) (h₁₀ : t.d = s.d)
    (h₁₁ : t.olen = s.olen) (h₁₂ : t.out = s.out) (h₁₃ : t.RecordLegal) : t.Inv := by
  cases s
  cases t
  simp only at h₁ h₂ h₃ h₄ h₅ h₆ h₇ h₈ h₉ h₁₀ h₁₁ h₁₂
  subst h₁ h₂ h₃ h₄ h₅ h₆ h₇ h₈ h₉ h₁₀ h₁₁ h₁₂
  obtain ⟨hc, -, ⟨a, b, c, d, e, f, g, i⟩, ⟨j, k, l⟩, ⟨m, n⟩, o⟩ := h
  refine ⟨hc, h₁₃, ⟨a, b, c, d, e, f, g, i⟩, ⟨j, k, l⟩, ⟨m, fun x => ⟨?_, (n x).2⟩⟩, o⟩
  obtain ⟨p, q, r, u⟩ := (n x).1
  exact ⟨p, q, r, u⟩

end Sys2Proof.Machine
end

