-- ==== Sys2Proof/Tests/Slice0.lean ====
section
/-!
SUPPORT. Tests. The expected values are those of spec/95_test_vectors.md (V1 to V17) and of the examples
in the rules, worked from the rules there and not by this model; the source is named at each test. The
last part shows, for each statement with hypotheses, a concrete state and operands that meet them.
-/

namespace Sys2Proof.Tests

open Sys2Proof.Machine

/-! ## Well-formedness: one ill-formed term for each check -/

/-- R94: 0x03 is not in the map. -/
theorem test_wf_opcode : ({ op := 0x03, a := 0, b := 0 } : Fields).wf = false ∧
    ({ op := 0x03, a := 0, b := 0 } : Fields).opLegal = false := by decide

/-- R95: NOP with `a = 1`. -/
theorem test_wf_a : ({ op := 0x00, a := 1, b := 0 } : Fields).wf = false ∧
    ({ op := 0x00, a := 1, b := 0 } : Fields).aLegal = false := by decide

/-- R95: RDP with `b = 1`. -/
theorem test_wf_b : ({ op := 0x22, a := 0, b := 1 } : Fields).wf = false ∧
    ({ op := 0x22, a := 0, b := 1 } : Fields).bLegal = false := by decide

/-- R95: XKEY with `b = 4`. -/
theorem test_wf_xkey : ({ op := 0x11, a := 0, b := 4 } : Fields).wf = false ∧
    ({ op := 0x11, a := 0, b := 4 } : Fields).xkeyLegal = false := by decide

/-- R5: `COST_MIN` above `COST_MAX`; `COST_MAX` above 31. -/
theorem test_config_cost : ({ Config.default with costMin := 32 } : Config).check = false ∧
    ({ Config.default with costMax := 32 } : Config).check = false := by decide

/-- R6: no password buffer; one of more than 65535 bytes. -/
theorem test_config_pwMax : ({ Config.default with pwMax := 0 } : Config).check = false ∧
    ({ Config.default with pwMax := 65536 } : Config).check = false := by decide

/-- R7: not a multiple of 8; below 24; above 65528. -/
theorem test_config_dMax : ({ Config.default with dMax := 28 } : Config).check = false ∧
    ({ Config.default with dMax := 16 } : Config).check = false ∧
    ({ Config.default with dMax := 65536 } : Config).check = false := by decide

/-- R8: field widths of 0, and above 22 and 32. -/
theorem test_config_widths : ({ Config.default with saltW := 0 } : Config).check = false ∧
    ({ Config.default with saltW := 23 } : Config).check = false ∧
    ({ Config.default with hashW := 0 } : Config).check = false ∧
    ({ Config.default with hashW := 33 } : Config).check = false := by decide

/-- R11: 64 equal characters; a character above 127. -/
theorem test_config_alphabet :
    ({ Config.default with alphabet := Bank.tabulate 64 fun _ => 0x2E } : Config).check = false ∧
    ({ Config.default with alphabet :=
        Config.default.alphabet.set 0 0xFF } : Config).check = false := by decide +kernel

/-! ## Decoding: a word of R93 for each constructor, the words of V15, V16 and R98 where they have one -/

theorem test_decode_housekeeping : decode 0x00000000 = .ok .nop ∧ decode 0x01000000 = .ok .clr ∧
    decode 0x02000000 = .ok .clrerr := by decide

theorem test_decode_registers : decode 0x08000004 = .ok (.setcost 4) ∧
    decode 0x09000010 = .ok (.setslen 16) ∧ decode 0x0A004800 = .ok (.setplen 72) ∧
    decode 0x0B001800 = .ok (.setdlen 24) := by decide

theorem test_decode_bytes : decode 0x0C000370 = .ok (.ldsalt 3 0x70) ∧
    decode 0x0D004801 = .ok (.ldpw 72 1) ∧ decode 0x0E001801 = .ok (.ldd 24 1) := by decide

theorem test_decode_tables : decode 0x10000000 = .ok .init ∧
    decode 0x11000000 = .ok (.xkey .password .zero) ∧ decode 0x11000001 = .ok (.xkey .salt .zero) ∧
    decode 0x11000002 = .ok (.xkey .password .real) ∧ decode 0x11000003 = .ok (.xkey .salt .real) ∧
    decode 0x12000000 = .ok .genkeys := by decide

theorem test_decode_operations : decode 0x13000000 = .ok (.encblk 0) ∧
    decode 0x14000000 = .ok .encbuf ∧ decode 0x15000000 = .ok .encode ∧
    decode 0x16000000 = .ok .hash := by decide

theorem test_decode_reads : decode 0x20000000 = .ok .rdstat ∧ decode 0x21000500 = .ok (.rdlen 5) ∧
    decode 0x22001100 = .ok (.rdp 17) ∧ decode 0x23010000 = .ok (.rds 256) ∧
    decode 0x24001800 = .ok (.rdd 24) ∧ decode 0x25000000 = .ok (.rdout 0) := by decide

/-- V16: the illegal words. -/
theorem test_decode_illegal : decode 0x03000000 = .error (.unknownOpcode 0x03) ∧
    decode 0xFFFFFFFF = .error (.unknownOpcode 0xFF) ∧ decode 0x00000100 = .error (.aNotZero 0x00) ∧
    decode 0x22000001 = .error (.bNotZero 0x22) ∧ decode 0x11000004 = .error .xkeyBitsNotZero := by
  decide

/-- R98: `LDPW 0, 'c'` is 0x0D000063. -/
theorem test_encode : encode (.ldpw 0 0x63) = 0x0D000063 ∧ encode (.rds 256) = 0x23010000 ∧
    encode (.xkey .salt .real) = 0x11000003 := by decide

/-! ## BitPacking, the cipher, key words and the text encoding -/

/-- V1. -/
theorem test_bytesToUint : bytesToWord [0x12, 0x34, 0x56, 0x78] = 0x12345678 ∧
    bytesToWord [0x00, 0x00, 0x00, 0x80] = 0x00000080 ∧
    bytesToBlock [0x01, 0x02, 0x03, 0x04, 0x05, 0x06, 0x07, 0x08] = 0x0102030405060708 := by decide

/-- V1. -/
theorem test_uintToBytes : uintToBytes (0xDEADBEEF : Word) = [0xDE, 0xAD, 0xBE, 0xEF] ∧
    splitUint64 0x0123456789ABCDEF = (0x01234567, 0x89ABCDEF) := by decide

/-- The parameters of V6: `SEED[t] = t`. -/
def linearConfig : Config :=
  { Config.default with seed := Bank.tabulate 1042 fun t => BitVec.ofNat 32 t }

/-- V6. -/
theorem test_F_linear : F (initTables linearConfig) 0x00000000 = 0x648 ∧
    F (initTables linearConfig) 0x01020304 = 0x648 ∧
    F (initTables linearConfig) 0xFFFFFFFF = 0x444 := by decide +kernel

/-- V6. -/
theorem test_block_linear : encryptBlock (initTables linearConfig) (0, 0) = (0x6E8, 0x1D2) := by
  decide +kernel

/-- V2. -/
theorem test_F_seeded : F (initTables Config.default) 0x00000000 = 0x2FCFF51E ∧
    F (initTables Config.default) 0x01234567 = 0xF36E574C := by decide +kernel

/-- V4. -/
theorem test_block_seeded : encryptBlock (initTables Config.default) (0x01234567, 0x89ABCDEF) =
    (0x87682110, 0x339A0C34) := by decide +kernel

/-- V7: `"abcde"`, and `"a"`. -/
theorem test_keyWord :
    keyWord [0x61, 0x62, 0x63, 0x64, 0x65] 5 1 = 0x65616263 ∧
    keyWord [0x61, 0x62, 0x63, 0x64, 0x65] 5 2 = 0x64656162 ∧ keyWord [0x61] 1 17 = 0x61616161 := by
  decide

/-- V8 (a): the first Mix of the pass with key `"a"` and the zero salt. -/
theorem test_mix : (mix zero16
    { tab := keyXor (initTables Config.default) [0x61] 1, blk := 0, k := 0 }).2 =
      (0xFBE3799C, 0xC4FFED90) := by decide +kernel

/-- V8 (a): the second encryption of that pass, under the tables the first one left. -/
theorem test_fillP : (mix zero16 (fillPStep zero16
    { tab := keyXor (initTables Config.default) [0x61] 1, blk := 0, k := 0 } 0)).2 =
      (0x1A4A934C, 0x725A7A5B) := by decide +kernel

/-- V8 (b): the two halves of the salt 00 .. 0F. -/
theorem test_saltHalf :
    let salt : List Byte := [0, 1, 2, 3, 4, 5, 6, 7, 8, 9, 10, 11, 12, 13, 14, 15]
    saltHalf salt 0 = 0x0001020304050607 ∧ saltHalf salt 1 = 0x08090A0B0C0D0E0F := by decide

/-- V11: `FF`, `FF FF`, `4D 61 6E`. -/
theorem test_b64 : b64 Config.default [0xFF] = [0x39, 0x75] ∧
    b64 Config.default [0xFF, 0xFF] = [0x39, 0x39, 0x36] ∧
    b64 Config.default [0x4D, 0x61, 0x6E] = [0x52, 0x55, 0x44, 0x73] := by decide

/-! ## One step of each command -/

/-- The outcome of one step with the word offered: the response and what `f` reads from the state. -/
def one {α : Type} (s : State) (w : Word) (f : State → α) : Option (Option Word × α) :=
  match step (s.withFetchWord 32 w.toNat) with
  | .next t => some (t.lastResponse, f t)
  | .fault _ => none
  | .refused _ => none

/-- The state after INIT (R158). -/
def seeded : State := { State.reset with tab := initTables Config.default, tstate := .seeded }

/-- V15 row SETCOST, then NOP: the status shows the cost. -/
theorem test_nop : one { State.reset with cost := 4 } 0x00000000 (·.cost) = some (some 0x400, 4) := by
  decide

/-- V17: CLR after status 00100303. -/
theorem test_clr :
    one { State.reset with slen := 16, cost := 3, err := true, errcode := 3 } 0x01000000
      (fun t => (t.cost, t.slen, t.tstate)) = some (some 0x00000007, (0, 0, .uninit)) := by decide

/-- V17: status 000F0405. -/
theorem test_clrerr : one { State.reset with slen := 15, cost := 4, err := true, errcode := 2 }
    0x02000000 (·.err) = some (some 0x000F0400, false) := by decide

/-- V15; V14: SETCOST 5 on finished tables answers 001005C0. -/
theorem test_setcost : one State.reset 0x08000004 (·.cost) = some (some 0x400, 4) ∧
    one { State.reset with slen := 16, cost := 4, olen := 60, tstate := .final } 0x08000005
      (·.tstate) = some (some 0x001005C0, .mixed) := by decide

/-- The registers after the scenario HASH (V12, status 001004E0), its tables and bytes left out. -/
def hashed : State := { State.reset with slen := 16, cost := 4, olen := 60, tstate := .final }

/-- V15. -/
theorem test_setslen : one State.reset 0x09000010 (·.slen) = some (some 0x00100000, 16) := by decide

/-- V15: `PLEN` 72 and 73. -/
theorem test_setplen : one State.reset 0x0A004800 (·.plen) = some (some 0, 72) ∧
    one State.reset 0x0A004900 (·.plen) = some (some 0xF, 0) := by decide

/-- V15: `DLEN` 24 and 25. -/
theorem test_setdlen : one State.reset 0x0B001800 (·.dlen) = some (some 0, 24) ∧
    one State.reset 0x0B001900 (·.dlen) = some (some 0xF, 0) := by decide

/-- R98: `LDSALT 3, 0x70`; V15: index 16. -/
theorem test_ldsalt : one State.reset 0x0C000370 (·.salt) = some (some 0, [(3, 0x70)]) ∧
    one State.reset 0x0C001000 (·.salt) = some (some 0xD, []) := by decide

/-- R98: `LDPW 0, 'c'`; V14: it demotes even when the value is the one held. -/
theorem test_ldpw : one { hashed with pw := [(0, 0x63)] } 0x0D000063 (·.pw) = some (some 0x001004C0, [(0, 0x63)]) ∧
    one State.reset 0x0D004801 (·.pw) = some (some 0xD, []) := by decide

/-- V14: LDD does not demote; V15: index 24. -/
theorem test_ldd : one { hashed with d := [(0, 7)] } 0x0E000000 (·.d) = some (some 0x001004E0, []) ∧
    one State.reset 0x0E001801 (·.d) = some (some 0xD, []) := by decide

/-- V15: after INIT, `P[0]` is 243F6A88 and `S[3][255]` is 3AC372E6. -/
theorem test_init : one State.reset 0x10000000 (fun t => (t.tab.word 0, t.tab.word 1041)) =
    some (some 0x20, (0x243F6A88, 0x3AC372E6)) := by decide +kernel

/-- V8 (e): `XKEY 0` without a password, `XKEY 2` without salt and password, `XKEY 0` after reset. -/
theorem test_xkey_errors : one { State.reset with tstate := .seeded } 0x11000000 (·.tstate) =
      some (some 0x27, .seeded) ∧
    one { State.reset with tstate := .seeded } 0x11000002 (·.tstate) = some (some 0x25, .seeded) ∧
    one State.reset 0x11000000 (·.tstate) = some (some 0x11, .uninit) := by decide

/-- V9: GENKEYS on reset state, with `COST = 3` on seeded tables, and on finished tables. -/
theorem test_genkeys_errors :
    one { State.reset with slen := 16, plen := 12, cost := 4 } 0x12000000 (·.tstate) =
      some (some 0x00100411, .uninit) ∧
    one { State.reset with slen := 16, plen := 12, cost := 3, tstate := .seeded } 0x12000000
      (·.tstate) = some (some 0x00100323, .seeded) ∧
    one { State.reset with slen := 16, plen := 12, cost := 4, olen := 60, tstate := .final }
      0x12000000 (·.tstate) = some (some 0x001004F1, .final) := by decide

/-- V4: ENCBLK 0 on a zero block; ENCBLK 1 beyond `DLEN`. -/
theorem test_encblk : one { seeded with dlen := 8 } 0x13000000 (·.d.readN 0 8) =
      some (some 0x20, [0x94, 0x65, 0xC1, 0x46, 0xB3, 0xF2, 0x75, 0xD3]) ∧
    one { seeded with dlen := 8 } 0x13000100 (·.d) = some (some 0x2D, []) := by decide +kernel

/-- V5: one byte 80, `DLEN` 1. -/
theorem test_encbuf : one { seeded with d := [(0, 0x80), (3, 0xEE)], dlen := 1 } 0x14000000
    (fun t => (t.dlen, t.d.readN 0 8)) =
      some (some 0x20, (8, [0xC3, 0x11, 0x56, 0x89, 0x60, 0x94, 0xEA, 0xE1])) := by decide +kernel

/-- V12, V14: ENCODE on seeded and on stale tables. -/
theorem test_encode_stale : one { State.reset with slen := 16, cost := 4, tstate := .seeded }
      0x15000000 (·.olen) = some (some 0x00100431, 0) ∧
    one { State.reset with slen := 16, cost := 5, olen := 60, tstate := .mixed } 0x15000000
      (·.olen) = some (some 0x00100551, 0) := by decide

/-- V13: three invalid inputs give the first error; the failing HASH drops the old string. -/
theorem test_hash_errors : one { State.reset with cost := 3, slen := 15 } 0x16000000 (·.tstate) =
      some (some 0x000F0303, .uninit) ∧
    one { State.reset with cost := 4, slen := 16, olen := 60, tstate := .mixed } 0x16000000
      (·.olen) = some (some 0x00100447, 0) := by decide

/-- V12: the status after the HASH of the scenario. -/
theorem test_rdstat : one hashed 0x20000000 (·.olen) = some (some 0x001004E0, 60) := by decide

/-- V12: `RDLEN 2` is 60; V15: selector 5. -/
theorem test_rdlen : one { State.reset with olen := 60 } 0x21000200 (·.err) = some (some 60, false) ∧
    one State.reset 0x21000500 (·.status) = some (some 0, 0xD) := by decide

/-- V15. -/
theorem test_rdp : one seeded 0x22001100 (·.err) = some (some 0x8979FB1B, false) ∧
    one seeded 0x22001200 (·.status) = some (some 0, 0x2D) := by decide +kernel

/-- V15. -/
theorem test_rds : one seeded 0x23010000 (·.err) = some (some 0x4B7A70E9, false) ∧
    one seeded 0x23040000 (·.status) = some (some 0, 0x2D) := by decide +kernel

/-- V15: `D_MAX` is 24. -/
theorem test_rdd : one { State.reset with d := [(23, 0xAB)] } 0x24001700 (·.err) =
      some (some 0xAB, false) ∧
    one State.reset 0x24001800 (·.status) = some (some 0, 0xD) := by decide

/-- V15: index 59 is readable, index 60 is not. -/
theorem test_rdout : one { State.reset with out := [(59, 0x44)], olen := 60 } 0x25003B00 (·.err) =
      some (some 0x44, false) ∧
    one { State.reset with out := [(59, 0x44)], olen := 60 } 0x25003C00 (·.errcode) =
      some (some 0, 6) := by decide

/-- V16: illegal words on reset state; a read form responds 0. V17: the first error is kept. -/
theorem test_illegal : one State.reset 0x7F000000 (·.errcode) = some (some 0xB, 5) ∧
    one State.reset 0x22000001 (·.errcode) = some (some 0, 5) ∧
    one { State.reset with err := true, errcode := 8 } 0x7F000000 (·.errcode) =
      some (some 0x11, 8) := by decide

/-- The word placed by `withFetchWord` is the one the decoder reads. -/
theorem test_decodeTableWord : decodeTableWord 32 0x0C000370 = some (.ldsalt 3 0x70) ∧
    decodeTableWord 32 0x03000000 = none := by decide

/-! ## Witnesses: the hypotheses of each statement can be met -/

/-- Valid inputs (R221): cost 4, salt length 16, the password `"a"`. -/
def ready : State := { State.reset with cost := 4, slen := 16, plen := 1, pw := [(0, 0x61)] }

theorem ready_valid : ready.InputsValid := by constructor <;> decide

/-- A state with the finished tables of its inputs (10 R28); a term, never evaluated. -/
def finish (s : State) : State :=
  { s with tab := s.stretch (initTables s.cfg), tstate := .final }

theorem finish_tag (s : State) (h : s.InputsValid) : (finish s).TagTrue :=
  ⟨(by intro e; cases e), fun _ => ⟨⟨h.1, h.2, h.3, h.4⟩, rfl⟩⟩

def finished : State := finish ready

theorem finished_valid : finished.InputsValid := by constructor <;> decide

theorem test_witness_ready_inv : ready.Inv where
  config := Config.default_wf
  record := by constructor <;> decide
  spaces := by constructor <;> decide
  lengths := by constructor <;> decide
  tag := by constructor <;> intro h <;> cases h
  result := fun h => absurd rfl h

theorem finished_record : finished.RecordLegal := by constructor <;> decide

theorem finished_spaces : finished.SpacesLegal := by constructor <;> decide

theorem finished_lengths : finished.LengthsLegal := by constructor <;> decide

theorem finished_tag : finished.TagTrue := finish_tag ready ready_valid

theorem test_witness_finished_inv : finished.Inv :=
  ⟨Config.default_wf, finished_record, finished_spaces, finished_lengths, finished_tag,
    fun h => absurd rfl h⟩

/-- DecodedWordIsTheEncodingOfItsCommand. -/
theorem test_witness_decoded : decode 0x0D000063 = .ok (.ldpw 0 0x63) := by decide

/-- StepRunsTheDecodedCommand, EveryCommandWordGetsOneResponse. -/
theorem test_witness_step : ({ ready with input := [.command 0x14000000, .reset] } : State).input =
    .command 0x14000000 :: [.reset] ∧ decode 0x14000000 = .ok .encbuf := by decide

/-- OfferedTableWordIsTheNextCommand, at the last opcode and the largest operand. -/
theorem test_witness_offered :
    0x25FFFF00 < 2 ^ 32 ∧ decodeTableWord 32 0x25FFFF00 = some (.rdout 0xFFFF) := by decide

/-- IllegalWordRecordsCodeFive: a read form at each end of the range, and words just outside it. -/
theorem test_witness_illegal : (Fields.ofWord 0x21000001).wf = false ∧
    (Fields.ofWord 0x25000001).wf = false ∧ (Fields.ofWord 0x20000001).wf = false ∧
    (Fields.ofWord 0x26000000).wf = false ∧
    ({ ready with input := [.command 0x26000000] } : State).input = .command 0x26000000 :: [] := by
  decide

/-- EveryStepAnswersANextState, second clause; EveryStepKeepsTheInvariant with a step that does
something. -/
theorem test_witness_idle : State.reset.input = [] := rfl

theorem test_witness_inv_step : ∃ t, ({ ready with input := [.reset] } : State).Inv ∧
    step { ready with input := [.reset] } = .next t :=
  ⟨_, test_witness_ready_inv.congr rfl rfl rfl rfl rfl rfl rfl rfl rfl rfl rfl rfl
    test_witness_ready_inv.record, rfl⟩

/-- NonReadsRespondStatusAndFailingReadsRespondZero: a command of each kind; a read that records an error. -/
theorem test_witness_response :
    (∀ a, Instr.nop ≠ .rdlen a ∧ Instr.nop ≠ .rdp a ∧ Instr.nop ≠ .rds a ∧ Instr.nop ≠ .rdd a ∧
      Instr.nop ≠ .rdout a) ∧
    ∃ t, exec (.rdlen 5) ready = .next t ∧ ready.err = false ∧ t.err = true :=
  ⟨by simp, _, rfl, rfl, rfl⟩

/-- ResetEventGivesTheResetState. -/
theorem test_witness_reset_event :
    ({ ready with input := [.reset] } : State).input = .reset :: [] ∧
    ({ ready with input := [.cutShort 0x16000000] } : State).input = .cutShort 0x16000000 :: [] := by
  decide

/-- ResetValues, ResetMeetsTheInvariant: the narrowest parameters too. -/
def narrowConfig : Config :=
  { costMin := 0, costMax := 0, pwMax := 1, dMax := 24, saltW := 1, hashW := 1,
    seed := Config.default.seed, magic := Config.default.magic, alphabet := Config.default.alphabet }

theorem test_witness_config : Config.default.Wf ∧ narrowConfig.Wf :=
  ⟨Config.default_wf, (Config.check_iff _).1 (by decide +kernel)⟩

/-- RecordedErrorStaysUntilClrerr. -/
theorem test_witness_recorded :
    Instr.clr ≠ .clrerr ∧ ({ ready with err := true, errcode := 8 } : State).err = true := by decide

/-- FailingCommandChangesOnlyTheRecordAndEncoderOlen, FailedHashLeavesNoReadableString: a failing ENCODE
and a failing LDSALT. -/
theorem test_witness_failing :
    (∃ t, exec .encode ready = .next t ∧ ready.err = false ∧ t.err = true) ∧
    ∃ t, exec (.ldsalt 16 0) ready = .next t ∧ t.err = true :=
  ⟨⟨_, rfl, rfl, rfl⟩, _, rfl, rfl⟩

/-- ValidationOrder: cost 3 and 32 beside the range 4 to 31, salt lengths 15 and 17, no password, and
valid inputs. -/
theorem test_witness_validation :
    ({ ready with cost := 3 } : State).cost.toNat < ready.cfg.costMin ∧
    ready.cfg.costMax < ({ ready with cost := 32 } : State).cost.toNat ∧
    ({ ready with slen := 15 } : State).slen.toNat ≠ 16 ∧
    ({ ready with slen := 17 } : State).slen.toNat ≠ 16 ∧
    ({ ready with plen := 0 } : State).plen.toNat = 0 ∧
    ¬ (ready.cost.toNat < ready.cfg.costMin ∨ ready.cfg.costMax < ready.cost.toNat) := by decide

/-- SetplenStoresUpToTheCapacity, SetdlenStoresUpToTheCapacity: the two values where the clauses meet. -/
theorem test_witness_lengths : ready.cfg.pwMax < (73 : Half).toNat ∧
    (72 : Half).toNat ≤ ready.cfg.pwMax ∧ ready.cfg.dMax < (25 : Half).toNat ∧
    (24 : Half).toNat ≤ ready.cfg.dMax := by decide

/-- LdsaltWritesOneSaltByte, LdpwWritesOnePasswordByte, LddWritesOneDataByte: the two indices where the
clauses meet. -/
theorem test_witness_loads : ready.salt.wf ∧ ready.pw.wf ∧ ready.d.wf ∧ 16 ≤ (16 : Half).toNat ∧
    (15 : Half).toNat < 16 ∧ ready.cfg.pwMax ≤ (72 : Half).toNat ∧
    (71 : Half).toNat < ready.cfg.pwMax ∧ ready.cfg.dMax ≤ (24 : Half).toNat ∧
    (23 : Half).toNat < ready.cfg.dMax := by decide

/-- ReloadOfAnInputStalesTheTables: each of the four kinds of load. -/
theorem test_witness_reload : finished.tstate = .final ∧ finished.err = false ∧
    (∃ b, Instr.setcost 4 = .setcost b ∨ Instr.setcost 4 = .setslen b) ∧
    (∃ a, Instr.setplen 72 = .setplen a ∧ a.toNat ≤ finished.cfg.pwMax) ∧
    (∃ a b, Instr.ldsalt 15 0 = .ldsalt a b ∧ a.toNat < 16) ∧
    ∃ a b, Instr.ldpw 71 0 = .ldpw a b ∧ a.toNat < finished.cfg.pwMax :=
  ⟨rfl, rfl, ⟨4, .inl rfl⟩, ⟨72, rfl, by decide⟩, ⟨15, 0, rfl, by decide⟩, 71, 0, rfl, by decide⟩

/-- RdlenRespondsALengthRegister: the five selectors and the first one above them. -/
theorem test_witness_rdlen : 4 < (5 : Half).toNat ∧ (0 : Half).toNat = 0 ∧ (1 : Half).toNat = 1 ∧
    (2 : Half).toNat = 2 ∧ (3 : Half).toNat = 3 ∧ (4 : Half).toNat = 4 := by decide

/-- RdpAndRdsRespondATableWord: UNINIT; the last word and the first index past it. -/
theorem test_witness_table_reads : ready.tstate = .uninit ∧ seeded.tstate ≠ .uninit ∧
    18 ≤ (18 : Half).toNat ∧ (17 : Half).toNat < 18 ∧ 1024 ≤ (1024 : Half).toNat ∧
    (1023 : Half).toNat < 1024 := by decide

/-- RddAndRdoutRespondAByte, ReadoutRespondsTheWholeString. -/
theorem test_witness_byte_reads : hashed.cfg.dMax ≤ (24 : Half).toNat ∧
    (23 : Half).toNat < hashed.cfg.dMax ∧ hashed.olen.toNat ≤ (60 : Half).toNat ∧
    (59 : Half).toNat < hashed.olen.toNat ∧ hashed.olen.toNat = hashed.cfg.outLen := by decide

theorem test_witness_readout : hashed.cfg.Wf ∧ hashed.olen.toNat = hashed.cfg.outLen :=
  ⟨Config.default_wf, by decide⟩

/-- BytesAndIntegersRoundTrip. -/
theorem test_witness_bytes : ([0xFF, 0, 0, 0x80] : List Byte).length = 4 ∧
    ([0xFF, 0, 0, 0x80, 1, 2, 3, 4] : List Byte).length = 8 := by decide

/-- The halves of the closed form, by recursion on the round. -/
def halves (t : Tables) : Nat → Word × Word
  | 0 => (0, 0)
  | i + 1 =>
    ((halves t i).2 ^^^ F t ((halves t i).1 ^^^ t.word i), F t ((halves t i).1 ^^^ t.word i))

/-- EncryptBlockClosedForm. -/
theorem test_witness_closed_form (t : Tables) : ∀ i < 16,
    (halves t (i + 1)).1 = (halves t i).2 ^^^ F t ((halves t i).1 ^^^ t.word i) ∧
    (halves t (i + 1)).2 = F t ((halves t i).1 ^^^ t.word i) := fun _ _ => ⟨rfl, rfl⟩

/-- EncblkEncryptsOneBlock: UNINIT; the last block inside `DLEN = 24` and the first one outside; with
`DLEN = 23` the last block is outside. -/
theorem test_witness_encblk : seeded.d.wf ∧ ready.tstate = .uninit ∧ seeded.tstate ≠ .uninit ∧
    8 * (2 : Half).toNat + 8 ≤ ({ seeded with dlen := 24 } : State).dlen.toNat ∧
    ({ seeded with dlen := 24 } : State).dlen.toNat < 8 * (3 : Half).toNat + 8 ∧
    ({ seeded with dlen := 23 } : State).dlen.toNat < 8 * (2 : Half).toNat + 8 := by decide

/-- EncbufEncryptsThePaddedBuffer: the empty buffer, the largest one, a chunk. -/
theorem test_witness_encbuf : seeded.d.wf ∧ seeded.dlen.toNat ≤ 65528 ∧ seeded.tstate ≠ .uninit ∧
    ready.tstate = .uninit ∧ ({ seeded with dlen := 65528 } : State).dlen.toNat ≤ 65528 ∧
    0 < (({ seeded with dlen := 1 } : State).dlen.toNat + 7) / 8 := by decide

/-- KeyWordWrapsByteByByte, KeyWordsReadAtMost72Bytes: one byte; 73 bytes that differ in the last. -/
theorem test_witness_keys : 1 ≤ ([0x61] : List Byte).length ∧
    72 ≤ (List.replicate 73 (0 : Byte)).length ∧
    (List.replicate 72 (0 : Byte) ++ [1]).length = (List.replicate 73 (0 : Byte)).length ∧
    (List.replicate 72 (0 : Byte) ++ [1]).take 72 = (List.replicate 73 (0 : Byte)).take 72 := by
  decide +kernel

/-- ExpandKeyIs521ChainedEncryptions. -/
theorem test_witness_pass : zero16.length = 16 ∧ (0 : Nat) < 521 ∧ 520 < 521 := by decide

/-- XkeyRunsOnePass: UNINIT; a salt length beside 16; no password; every source valid. -/
theorem test_witness_xkey : ready.tstate = .uninit ∧ seeded.tstate ≠ .uninit ∧
    seeded.slen.toNat ≠ 16 ∧ seeded.plen.toNat = 0 ∧ finished.tstate ≠ .uninit ∧
    finished.slen.toNat = 16 ∧ 1 ≤ finished.plen.toNat := by decide

/-- GenkeysStretchesTheSeededTables: not SEEDED; SEEDED with an invalid input; SEEDED and valid. -/
theorem test_witness_genkeys : ready.tstate ≠ .seeded ∧ seeded.tstate = .seeded ∧
    seeded.validate { cost := true, salt := true, pw := true } = some .invalidCost ∧
    ({ ready with tstate := .seeded } : State).tstate = .seeded ∧
    ({ ready with tstate := .seeded } : State).InputsValid :=
  ⟨by decide, rfl, by decide, rfl, by constructor <;> decide⟩

/-- StagedPassesEqualGenkeys, HashEqualsInitGenkeysEncode. -/
theorem test_witness_valid : ready.InputsValid := ready_valid

/-- TextEncodingBitByBit: the last character of one byte, the last of its six bits. -/
theorem test_witness_text : 1 < (8 * ([0xFF] : List Byte).length + 5) / 6 ∧ 5 < 6 := by decide

/-- EncodeFormatsTheHash: stale tables; finished tables with an invalid cost; finished tables. -/
theorem test_witness_encode : finished.cfg.Wf ∧ finished.d.wf ∧ finished.out.wf ∧
    ready.tstate ≠ .final ∧ finished.tstate = .final ∧
    ({ finished with cost := 3 } : State).validate { cost := true, salt := true, pw := false } =
      some .invalidCost ∧
    finished.cfg.costMin ≤ finished.cost.toNat ∧ finished.cost.toNat ≤ finished.cfg.costMax ∧
    finished.slen.toNat = 16 :=
  ⟨Config.default_wf, by decide, by decide, by decide, rfl, by decide, by decide, by decide, by decide⟩

/-- HashCompletesOrRejects. -/
theorem test_witness_hash : ready.cfg.Wf ∧ ready.d.wf ∧ ready.InputsValid ∧
    ({ ready with plen := 0 } : State).validate { cost := true, salt := true, pw := true } =
      some .emptyPassword :=
  ⟨Config.default_wf, by decide, ready_valid, by decide⟩

/-- Finished tables, and a password byte past the length. -/
def longer : State := finish { ready with pw := [(0, 0x61), (1, 0x62)] }

theorem longer_record : longer.RecordLegal := by constructor <;> decide

theorem longer_spaces : longer.SpacesLegal := by constructor <;> decide

theorem longer_lengths : longer.LengthsLegal := by constructor <;> decide

theorem longer_tag : longer.TagTrue := finish_tag _ (by constructor <;> decide)

theorem longer_inv : longer.Inv :=
  ⟨Config.default_wf, longer_record, longer_spaces, longer_lengths, longer_tag,
    fun h => absurd rfl h⟩

/-- HashDependsOnlyOnItsArguments: two states that agree on the arguments and differ in the tag and in the
password byte past the length; the tables of the second are finished, those of the first are not. -/
theorem test_witness_arguments : ready.Inv ∧ longer.Inv ∧ ready.InputsValid ∧
    longer.cfg = ready.cfg ∧ longer.cost = ready.cost ∧ longer.slen = ready.slen ∧
    longer.plen = ready.plen ∧ (∀ i < 16, longer.salt.read i = ready.salt.read i) ∧
    (∀ i < ready.plen.toNat, longer.pw.read i = ready.pw.read i) ∧
    longer.tstate ≠ ready.tstate ∧ longer.pw.read 1 ≠ ready.pw.read 1 :=
  ⟨test_witness_ready_inv, longer_inv, ready_valid, rfl, rfl, rfl, rfl, by decide, by decide, by decide,
    by decide⟩

/-- HashcallHashesItsArguments: cost at both ends of its range, the shortest and the longest password. -/
theorem test_witness_hashcall : ready.Inv ∧ ready.cfg.costMin ≤ (4 : Byte).toNat ∧
    (31 : Byte).toNat ≤ ready.cfg.costMax ∧ zero16.length = 16 ∧ 1 ≤ ([0x61] : List Byte).length ∧
    (List.replicate 72 (0x61 : Byte)).length ≤ ready.cfg.pwMax :=
  ⟨test_witness_ready_inv, by decide, by decide, by decide, by decide, by decide⟩

/-- TablesChangedOnlyByTheKeySchedule, InputsWrittenOnlyByTheirLoads, BuffersWrittenOnlyByTheirCommands,
TagTransitions. -/
theorem test_witness_frames : Instr.nop ≠ .init ∧ (∀ k x, Instr.nop ≠ .xkey k x) ∧
    Instr.nop ≠ .genkeys ∧ Instr.nop ≠ .hash ∧ Instr.nop ≠ .clr ∧ Instr.nop ≠ .encode ∧
    Instr.nop ≠ .encbuf ∧ (∀ b, Instr.nop ≠ .setcost b ∧ Instr.nop ≠ .setslen b) ∧
    (∀ a, Instr.nop ≠ .setplen a ∧ Instr.nop ≠ .setdlen a ∧ Instr.nop ≠ .encblk a) ∧
    ∀ a b, Instr.nop ≠ .ldsalt a b ∧ Instr.nop ≠ .ldpw a b ∧ Instr.nop ≠ .ldd a b := by simp

/-- UnspecifiedTableWordsAreUnobservable. -/
theorem test_witness_uninit : ready.tstate = .uninit := rfl

/-- PasswordBytesBeyondTheLengthAreIgnored: a buffer that differs in the byte past the length. -/
theorem test_witness_password : (∀ k < ready.plen.toNat,
      Memory.read [(0, 0x61), (1, 0x62)] k = ready.pw.read k) ∧
    Memory.read [(0, 0x61), (1, 0x62)] 1 ≠ ready.pw.read 1 := by decide

/-- InstancesAreIndependent. -/
theorem test_witness_two : (0 : Nat) ≠ 1 ∧
    (System.reset [Config.default, Config.default]).engines.length = 2 := by decide

end Sys2Proof.Tests
end

section
/-!
SUPPORT. One step by the event at the port, and the totality of the step: a command, an illegal word and
a reset all answer a next state.
-/

namespace Sys2Proof.Machine

/-! ## The step, one equation per event -/

theorem step_of_no_event {s : State} (h : s.input = []) : step s = .next s := by
  simp only [step, State.takeEvent, h]

theorem step_of_command {s : State} {w : Word} {rest : List HostEvent}
    (h : s.input = .command w :: rest) : step s = runWord w { s with input := rest } := by
  simp only [step, State.takeEvent, h]

theorem step_of_reset {s : State} {rest : List HostEvent} (h : s.input = .reset :: rest) :
    step s = .next ({ s with input := rest } : State).takeReset := by
  simp only [step, State.takeEvent, h]

theorem step_of_cutShort {s : State} {w : Word} {rest : List HostEvent}
    (h : s.input = .cutShort w :: rest) :
    step s = .next ({ s with input := rest } : State).takeReset := by
  simp only [step, State.takeEvent, h]

/-! ## A command word, legal or not -/

theorem runWord_of_decode {w : Word} {i : Instr} (h : decode w = .ok i) (s : State) :
    runWord w s = exec i s := by
  simp only [runWord, h]

theorem runWord_of_illegal {w : Word} (h : ∀ i, decode w ≠ .ok i) (s : State) :
    runWord w s = illegalCommand w s := by
  cases hw : decode w with
  | ok i => exact absurd hw (h i)
  | error e => simp only [runWord, hw]

/-- An illegal word records code 5 and changes nothing else; an illegal form of a read responds 0
(30 R95). -/
theorem illegalCommand_eq (w : Word) (s : State) :
    illegalCommand w s = .next ((s.errored ErrKind.illegalCommand.code).answering
      (if readOpcode (Fields.ofWord w).op then 0
        else (s.errored ErrKind.illegalCommand.code).status)) := by
  unfold illegalCommand
  split_ifs
  · exact rejectRead_eq _ s
  · exact reject_eq _ s

/-! ## Every outcome is a next state (00 R18, 60 R222) -/

/-- A command that fails records its error and answers, like one that completes. -/
theorem exec_answers_next (i : Instr) (s : State) : ∃ t, exec i s = .next t := by
  have h := exec_ending i s
  generalize exec i s = r at h
  cases h <;> exact ⟨_, rfl⟩

theorem runWord_answers_next (w : Word) (s : State) : ∃ t, runWord w s = .next t := by
  by_cases h : ∃ i, decode w = .ok i
  · obtain ⟨i, hi⟩ := h
    rw [runWord_of_decode hi]
    exact exec_answers_next i s
  · rw [runWord_of_illegal (not_exists.1 h), illegalCommand_eq]
    exact ⟨_, rfl⟩

theorem step_answers_next (s : State) : ∃ t, step s = .next t := by
  match h : s.input with
  | [] => exact ⟨s, step_of_no_event h⟩
  | .command w :: rest =>
    rw [step_of_command h]
    exact runWord_answers_next w _
  | .reset :: _ => exact ⟨_, step_of_reset h⟩
  | .cutShort _ :: _ => exact ⟨_, step_of_cutShort h⟩

/-- Settles O9: by the event at the port; a command word ends in one of the five ways of `exec_ending` or
is an illegal command, and the idle step is its own equation. -/
theorem everyStepAnswersANextState : Obligations.EveryStepAnswersANextState :=
  ⟨step_answers_next, fun _ => step_of_no_event⟩

end Sys2Proof.Machine
end

section
/-!
SUPPORT. Invariants and frames from `exec_ending`, packaged once, and the invariant of the machine
(spec/10_state.md R20, R28, R29, R31): reset meets it and every step keeps it.
-/

namespace Sys2Proof.Machine

/-- A predicate that a response and a recorded error keep holds after a command when it holds before the
command and after the command's effect; ENCODE and HASH may also drop their result. -/
theorem exec_answers_of {i : Instr} {s : State} {P : State → Prop}
    (answering : ∀ {u : State} (r : Word), P u → P (u.answering r))
    (errored : ∀ {u : State} {k : ErrKind}, k ≠ .allocationFailure → P u → P (u.errored k.code))
    (start : P s) (drop : i = .encode ∨ i = .hash → P s.dropResult)
    (effect : ∀ {u : State}, Effect s i u → P u) : ∃ t, exec i s = .next t ∧ P t := by
  have h := exec_ending i s
  generalize exec i s = r at h
  cases h with
  | changed h _ => exact ⟨_, rfl, answering _ (effect h)⟩
  | failed k hk _ _ => exact ⟨_, rfl, answering _ (errored hk start)⟩
  | dropped k hk h => exact ⟨_, rfl, answering _ (errored hk (drop h))⟩
  | readFailed k hk _ => exact ⟨_, rfl, answering _ (errored hk start)⟩
  | read v _ => exact ⟨_, rfl, answering _ start⟩

/-! ## Updates that keep the invariant -/

theorem State.recordLegal_of_clear {s : State} (he : s.err = false) (hc : s.errcode = 0) :
    s.RecordLegal := by
  constructor <;> simp [he, hc]

theorem State.resetWith_inv {c : Config} (hc : c.Wf) (tab : Tables) : (State.resetWith c tab).Inv where
  config := hc
  record := State.recordLegal_of_clear rfl rfl
  spaces := ⟨Memory.wf_nil, Memory.within_nil _, Memory.wf_nil, Memory.within_nil _, Memory.wf_nil,
    Memory.within_nil _, Memory.wf_nil, Memory.within_nil _⟩
  lengths := by constructor <;> simp [State.resetWith]
  tag := ⟨(nomatch ·), (nomatch ·)⟩
  result := fun h => absurd rfl h

theorem State.RecordLegal.errored {s : State} (h : s.RecordLegal) {k : ErrKind}
    (hk : k ≠ .allocationFailure) : (s.errored k.code).RecordLegal := by
  obtain ⟨hzero, hlegal⟩ := h
  obtain ⟨hcode, hcode_legal⟩ := k.code_legal hk
  cases he : s.err with
  | false => exact ⟨by simpa [he] using hcode, by rwa [State.errored_errcode, if_neg (by simp [he])]⟩
  | true =>
    have hnz : s.errcode ≠ 0 := fun e => by simp [hzero.2 e] at he
    exact ⟨by simpa [he] using hnz, by rwa [State.errored_errcode, if_pos he]⟩

/-- The invariant does not speak of the error record but for its legality, nor of the lists at the port. -/
theorem State.Inv.record_update {s : State} (h : s.Inv) {e : Bool} {c : BitVec 4} (n : Nat)
    (input : List HostEvent) (rs : List Word)
    (hr : ({ s with err := e, errcode := c } : State).RecordLegal) :
    ({ s with err := e, errcode := c, freeNext := n, input := input, responses := rs } : State).Inv :=
  h.congr rfl rfl rfl rfl rfl rfl rfl rfl rfl rfl rfl rfl hr

theorem State.Inv.answering {s : State} (h : s.Inv) (r : Word) : (s.answering r).Inv :=
  h.record_update _ _ _ h.record

theorem State.Inv.errored {s : State} (h : s.Inv) {k : ErrKind} (hk : k ≠ .allocationFailure) :
    (s.errored k.code).Inv :=
  h.record_update _ _ _ (h.record.errored hk)

/-- Finished tables stay finished when only the buffers change (10 R28). -/
theorem State.TagTrue.buffers {s : State} (h : s.TagTrue) (n : Half) (m : Memory) (l : Byte)
    (o : Memory) : ({ s with dlen := n, d := m, olen := l, out := o } : State).TagTrue where
  seeded := h.seeded
  final := fun e => ⟨{ (h.final e).1 with }, (h.final e).2⟩

/-- After a demotion nothing is claimed of finished tables (10 R28). -/
theorem State.TagTrue.demoted {s t : State} (h : s.TagTrue) (hcfg : t.cfg = s.cfg)
    (htab : t.tab = s.tab) (ht : t.tstate = s.tstate.demoted) : t.TagTrue where
  seeded := fun e => by rw [htab, hcfg, h.seeded (TState.demoted_eq_seeded.1 (ht ▸ e))]
  final := fun e => absurd (ht ▸ e) (TState.demoted_ne_final _)

theorem State.InputsValid.finished_tagTrue {s : State} (h : s.InputsValid) {tab : Tables}
    (ht : tab = s.stretch (initTables s.cfg)) :
    ({ s with tab := tab, tstate := .final } : State).TagTrue where
  seeded := (nomatch ·)
  final := fun _ => ⟨{ h with }, ht⟩

/-- A load: new inputs inside their ranges, with the tag demoted. -/
theorem State.Inv.load {s : State} (h : s.Inv) {cost slen : Byte} {salt pw : Memory} {plen : Half}
    (hsalt : salt.wf ∧ salt.within 16) (hpw : pw.wf ∧ pw.within s.cfg.pwMax)
    (hplen : plen.toNat ≤ s.cfg.pwMax) :
    ({ s with cost := cost, slen := slen, salt := salt, plen := plen, pw := pw,
              tstate := s.tstate.demoted } : State).Inv where
  config := h.config
  record := h.record
  spaces := { h.spaces with
    salt_wf := hsalt.1, salt_within := hsalt.2, pw_wf := hpw.1, pw_within := hpw.2 }
  lengths := { h.lengths with plen_le := hplen }
  tag := h.tag.demoted rfl rfl rfl
  result := h.result

/-- A write to the data buffer or its length. -/
theorem State.Inv.data {s : State} (h : s.Inv) {d : Memory} {dlen : Half}
    (hd : d.wf ∧ d.within s.cfg.dMax) (hdlen : dlen.toNat ≤ s.cfg.dMax) :
    ({ s with d := d, dlen := dlen } : State).Inv where
  config := h.config
  record := h.record
  spaces := { h.spaces with d_wf := hd.1, d_within := hd.2 }
  lengths := { h.lengths with dlen_le := hdlen }
  tag := h.tag.buffers _ _ _ _
  result := h.result

/-- New tables, of which the new tag is true. -/
theorem State.Inv.tables {s : State} (h : s.Inv) {tab : Tables} {ts : TState}
    (ht : ({ s with tab := tab, tstate := ts } : State).TagTrue) :
    ({ s with tab := tab, tstate := ts } : State).Inv where
  config := h.config
  record := h.record
  spaces := { h.spaces with }
  lengths := { h.lengths with }
  tag := ht
  result := h.result

theorem State.Inv.dropResult {s : State} (h : s.Inv) : s.dropResult.Inv where
  config := h.config
  record := h.record
  spaces := { h.spaces with }
  lengths := { h.lengths with olen_eq := .inl rfl }
  tag := h.tag.buffers _ _ _ _
  result := fun e => absurd rfl e

/-- Format leaves a whole string of the grammar, which fits `OUT` (43 R174). -/
theorem State.Inv.format {s : State} (h : s.Inv) (hv : s.InputsValid) : s.format.Inv := by
  have hcost : s.cost.toNat ≤ 99 := hv.cost_le.trans (h.config.costMax_le.trans (by decide))
  have hlen := (length_hashText s.cfg h.config s.cost.toNat (length_saltBytes s) s.d).le
  have holen : (BitVec.ofNat 8 s.cfg.outLen).toNat = s.cfg.outLen := by
    have := (Config.outLen_lt h.config).2
    rw [BitVec.toNat_ofNat]
    omega
  exact {
    config := h.config
    record := h.record
    spaces := { h.spaces with
      out_wf := Memory.wf_writeN h.spaces.out_wf _ _
      out_within := Memory.within_writeN _ h.spaces.out_within (by simpa using hlen) }
    lengths := { h.lengths with olen_eq := .inr holen }
    tag := h.tag.buffers _ _ _ _
    result := fun _ => outGrammar_hashText h.config h.spaces.out_wf hcost (length_saltBytes s) s.d }

theorem State.Inv.encodeResult {s : State} (h : s.Inv) (hv : s.InputsValid) : s.encodeResult.Inv := by
  obtain ⟨hlen, hwf, -, -, hwithin⟩ := reencrypt_spec s.cfg s.tab h.spaces.d_wf
  have hdlen : (BitVec.ofNat 16 (reencrypt s.cfg s.tab s.d).2).toNat ≤ s.cfg.dMax := by
    rw [hlen]
    exact h.config.dMax_ge
  exact (h.data ⟨hwf, hwithin _ h.spaces.d_within h.config.dMax_ge⟩ hdlen).format { hv with }

/-! ## Every effect, every command and every step keep it -/

/-- The whole chunks of a legal `DLEN` fit the buffer, whose capacity is a multiple of 8 (00 R7). -/
theorem State.Inv.chunks_le {s : State} (h : s.Inv) : 8 * ((s.dlen.toNat + 7) / 8) ≤ s.cfg.dMax := by
  have := h.lengths.dlen_le
  have := h.config.dMax_mod
  omega

theorem State.Inv.encbuf {s : State} (h : s.Inv) : ({ s with
    d := (encryptBuffer s.tab s.d s.dlen.toNat).1
    dlen := BitVec.ofNat 16 (encryptBuffer s.tab s.d s.dlen.toNat).2 } : State).Inv := by
  obtain ⟨hlen, hwf, -, -, hwithin⟩ := encryptBuffer_spec s.tab h.spaces.d_wf s.dlen.toNat
  refine h.data ⟨hwf, hwithin _ h.spaces.d_within h.chunks_le⟩ ?_
  rw [hlen, BitVec.toNat_ofNat]
  exact (Nat.mod_le _ _).trans h.chunks_le

theorem Effect.keeps_inv {s u : State} {i : Instr} (he : Effect s i u) (h : s.Inv) : u.Inv := by
  have hsalt : s.salt.wf ∧ s.salt.within 16 := ⟨h.spaces.salt_wf, h.spaces.salt_within⟩
  have hpw : s.pw.wf ∧ s.pw.within s.cfg.pwMax := ⟨h.spaces.pw_wf, h.spaces.pw_within⟩
  have hd : s.d.wf ∧ s.d.within s.cfg.dMax := ⟨h.spaces.d_wf, h.spaces.d_within⟩
  cases he with
  | nop => exact h
  | clr => exact (State.resetWith_inv h.config _).record_update _ _ _ h.record
  | clrerr => exact h.record_update _ _ _ (State.recordLegal_of_clear rfl rfl)
  | setcost b => exact h.load hsalt hpw h.lengths.plen_le
  | setslen b => exact h.load hsalt hpw h.lengths.plen_le
  | setplen a ha => exact h.load hsalt hpw ha
  | setdlen a ha => exact h.data hd ha
  | ldsalt a b ha =>
    exact h.load ⟨Memory.wf_write hsalt.1 _ _, Memory.within_write hsalt.2 ha _⟩ hpw h.lengths.plen_le
  | ldpw a b ha =>
    exact h.load hsalt ⟨Memory.wf_write hpw.1 _ _, Memory.within_write hpw.2 ha _⟩ h.lengths.plen_le
  | ldd a b ha =>
    exact h.data ⟨Memory.wf_write hd.1 _ _, Memory.within_write hd.2 ha _⟩ h.lengths.dlen_le
  | init => exact h.tables ⟨fun _ => rfl, (nomatch ·)⟩
  | xkey k x _ _ _ => exact h.tables ⟨(nomatch ·), (nomatch ·)⟩
  | genkeys hs hv => exact h.tables (hv.finished_tagTrue (by rw [h.tag.seeded hs]))
  | encblk a _ ha =>
    exact h.data ⟨encD_wf _ hd.1 _, encD_within _ hd.2 (ha.trans h.lengths.dlen_le)⟩ h.lengths.dlen_le
  | encbuf _ => exact h.encbuf
  | encode hf _ => exact h.encodeResult (h.tag.final hf).1
  | hash hv => exact (h.tables (hv.finished_tagTrue rfl)).encodeResult { hv with }
  | rdstat => exact h

theorem exec_keeps_inv {i : Instr} {s t : State} (h : s.Inv) (ht : exec i s = .next t) : t.Inv := by
  obtain ⟨u, hu, hinv⟩ := exec_answers_of (i := i) (P := State.Inv) (fun r h => h.answering r)
    (fun hk h => h.errored hk) h (fun _ => h.dropResult) (fun he => he.keeps_inv h)
  rw [ht] at hu
  cases hu
  exact hinv

theorem runWord_keeps_inv {w : Word} {s t : State} (h : s.Inv) (ht : runWord w s = .next t) :
    t.Inv := by
  by_cases hw : ∃ i, decode w = .ok i
  · obtain ⟨i, hi⟩ := hw
    rw [runWord_of_decode hi] at ht
    exact exec_keeps_inv h ht
  · rw [runWord_of_illegal (not_exists.1 hw), illegalCommand_eq] at ht
    cases ht
    exact (h.errored (by decide)).answering _

theorem State.Inv.takeReset {s : State} (h : s.Inv) : s.takeReset.Inv :=
  (State.resetWith_inv h.config _).record_update _ _ _ (State.recordLegal_of_clear rfl rfl)

/-- Settles O19: by the event at the port; a command word keeps the invariant because each of its effects
does, and a reset event leads to the reset state. -/
theorem everyStepKeepsTheInvariant : Obligations.EveryStepKeepsTheInvariant := by
  intro s t h ht
  have taken (rest : List HostEvent) : ({ s with input := rest } : State).Inv :=
    h.record_update _ _ _ h.record
  match hin : s.input with
  | [] => rw [step_of_no_event hin] at ht; cases ht; exact h
  | .command w :: rest => rw [step_of_command hin] at ht; exact runWord_keeps_inv (taken rest) ht
  | .reset :: rest => rw [step_of_reset hin] at ht; cases ht; exact (taken rest).takeReset
  | .cutShort w :: rest => rw [step_of_cutShort hin] at ht; cases ht; exact (taken rest).takeReset

/-- Settles O18. -/
theorem resetMeetsTheInvariant : Obligations.ResetMeetsTheInvariant :=
  ⟨State.resetWith_inv Config.default_wf _, fun _ tab hc => State.resetWith_inv hc tab⟩

end Sys2Proof.Machine
end

section
/-!
SUPPORT. The bits of the status word (spec/10_state.md R29), and what reset leaves (R35).
-/

namespace Sys2Proof.Machine

/-- Settles O13: each field is a digit of the value of `STATUS`. -/
theorem statusWordLayout : Obligations.StatusWordLayout := by
  intro s
  have hv := s.toNat_status
  have herr := s.err.toNat_lt
  have hcode := s.errcode.isLt
  have htag := s.tstate.bits.isLt
  have hval := s.ovalid.toNat_lt
  have hcost := s.cost.isLt
  have hslen := s.slen.isLt
  have htest (i : Nat) : s.status.getLsbD i = decide (s.status.toNat / 2 ^ i % 2 = 1) :=
    Nat.testBit_eq_decide_div_mod_eq
  have hbit (b : Bool) : decide (b.toNat = 1) = b := by cases b <;> rfl
  refine ⟨?_, BitVec.eq_of_toNat_eq ?_, ?_, ?_, BitVec.eq_of_toNat_eq ?_, BitVec.eq_of_toNat_eq ?_,
    BitVec.eq_of_toNat_eq ?_⟩
  · rw [htest, ← hbit s.err]
    congr 2
    omega
  · rw [toNat_extract]
    omega
  · have e : (s.status.extractLsb' 5 2).toNat = s.tstate.bits.toNat := by
      rw [toNat_extract]
      omega
    rw [e]
    cases s.tstate <;> rfl
  · have e : s.status.getLsbD 7 = s.ovalid := by
      rw [htest, ← hbit s.ovalid]
      congr 2
      omega
    rw [e, State.ovalid, beq_iff_eq]
  · rw [toNat_extract]
    omega
  · rw [toNat_extract]
    omega
  · rw [toNat_extract]
    show _ = 0
    omega

theorem State.resetWith_ovalid (c : Config) (tab : Tables) :
    (State.resetWith c tab).ovalid = false := by
  have h : c.outLen ≠ 0 := by
    rw [Config.outLen]
    omega
  simpa [State.ovalid, State.resetWith] using h.symm

/-- Settles O12: every field of `STATUS` is 0 after reset, `OVALID` because `OUT_LEN` is not 0. -/
theorem resetValues : Obligations.ResetValues := by
  intro c tab _
  have hstatus : (State.resetWith c tab).status = 0 := BitVec.eq_of_toNat_eq (by
    rw [State.toNat_status, State.resetWith_ovalid]
    rfl)
  exact ⟨rfl, rfl, rfl, rfl, rfl, rfl, rfl, rfl, fun _ => ⟨rfl, rfl, rfl, rfl⟩, hstatus⟩

end Sys2Proof.Machine
end

section
/-!
SUPPORT. What each command leaves unchanged: the tables, the inputs, the buffers, the table-state tag
(spec/10_state.md R20 to R28); a failed ENCODE or HASH (R31), and tables gone stale (R28).
-/

namespace Sys2Proof.Machine

section

variable {s u : State} {i : Instr}

/-! ## One frame lemma per register: the effects that write it, and no other -/

theorem Effect.tab_eq (he : Effect s i u) (hclr : i ≠ .clr) (hinit : i ≠ .init)
    (hxkey : ∀ k x, i ≠ .xkey k x) (hgenkeys : i ≠ .genkeys) (hhash : i ≠ .hash) : u.tab = s.tab := by
  cases he with
  | clr => exact absurd rfl hclr
  | init => exact absurd rfl hinit
  | xkey k x => exact absurd rfl (hxkey k x)
  | genkeys => exact absurd rfl hgenkeys
  | hash => exact absurd rfl hhash
  | _ => rfl

theorem Effect.cost_eq (he : Effect s i u) (hclr : i ≠ .clr) (hsetcost : ∀ b, i ≠ .setcost b) :
    u.cost = s.cost := by
  cases he with
  | clr => exact absurd rfl hclr
  | setcost b => exact absurd rfl (hsetcost b)
  | _ => rfl

theorem Effect.slen_eq (he : Effect s i u) (hclr : i ≠ .clr) (hsetslen : ∀ b, i ≠ .setslen b) :
    u.slen = s.slen := by
  cases he with
  | clr => exact absurd rfl hclr
  | setslen b => exact absurd rfl (hsetslen b)
  | _ => rfl

theorem Effect.salt_eq (he : Effect s i u) (hclr : i ≠ .clr) (hldsalt : ∀ a b, i ≠ .ldsalt a b) :
    u.salt = s.salt := by
  cases he with
  | clr => exact absurd rfl hclr
  | ldsalt a b => exact absurd rfl (hldsalt a b)
  | _ => rfl

theorem Effect.plen_eq (he : Effect s i u) (hclr : i ≠ .clr) (hsetplen : ∀ a, i ≠ .setplen a) :
    u.plen = s.plen := by
  cases he with
  | clr => exact absurd rfl hclr
  | setplen a => exact absurd rfl (hsetplen a)
  | _ => rfl

theorem Effect.pw_eq (he : Effect s i u) (hclr : i ≠ .clr) (hldpw : ∀ a b, i ≠ .ldpw a b) :
    u.pw = s.pw := by
  cases he with
  | clr => exact absurd rfl hclr
  | ldpw a b => exact absurd rfl (hldpw a b)
  | _ => rfl

theorem Effect.out_eq (he : Effect s i u) (hclr : i ≠ .clr)
    (hencode : i ≠ .encode) (hhash : i ≠ .hash) : u.out = s.out := by
  cases he with
  | clr => exact absurd rfl hclr
  | encode => exact absurd rfl hencode
  | hash => exact absurd rfl hhash
  | _ => rfl

theorem Effect.olen_eq (he : Effect s i u) (hclr : i ≠ .clr)
    (hencode : i ≠ .encode) (hhash : i ≠ .hash) : u.olen = s.olen := by
  cases he with
  | clr => exact absurd rfl hclr
  | encode => exact absurd rfl hencode
  | hash => exact absurd rfl hhash
  | _ => rfl

theorem Effect.dlen_eq (he : Effect s i u) (hclr : i ≠ .clr) (hencode : i ≠ .encode)
    (hhash : i ≠ .hash) (hencbuf : i ≠ .encbuf) (hsetdlen : ∀ a, i ≠ .setdlen a) : u.dlen = s.dlen := by
  cases he with
  | clr => exact absurd rfl hclr
  | encode => exact absurd rfl hencode
  | hash => exact absurd rfl hhash
  | encbuf => exact absurd rfl hencbuf
  | setdlen a => exact absurd rfl (hsetdlen a)
  | _ => rfl

theorem Effect.d_eq (he : Effect s i u) (hclr : i ≠ .clr) (hencode : i ≠ .encode) (hhash : i ≠ .hash)
    (hencbuf : i ≠ .encbuf) (hencblk : ∀ a, i ≠ .encblk a) (hldd : ∀ a b, i ≠ .ldd a b) : u.d = s.d := by
  cases he with
  | clr => exact absurd rfl hclr
  | encode => exact absurd rfl hencode
  | hash => exact absurd rfl hhash
  | encbuf => exact absurd rfl hencbuf
  | encblk a => exact absurd rfl (hencblk a)
  | ldd a b => exact absurd rfl (hldd a b)
  | _ => rfl

theorem Effect.err_eq (he : Effect s i u) (hclrerr : i ≠ .clrerr) :
    u.err = s.err := by
  cases he with
  | clrerr => exact absurd rfl hclrerr
  | _ => rfl

/-! ## The tag under an effect -/

/-- The five loads of an input (10 R28). -/
def Instr.loadsInput : Instr → Bool
  | .setcost _ | .setslen _ | .setplen _ | .ldsalt _ _ | .ldpw _ _ => true
  | .nop | .clr | .clrerr | .setdlen _ | .ldd _ _ | .init | .xkey _ _ | .genkeys | .encblk _
  | .encbuf | .encode | .hash | .rdstat | .rdlen _ | .rdp _ | .rds _ | .rdd _ | .rdout _ => false

theorem loadsInput_eq_false (hcost : ∀ b, i ≠ .setcost b ∧ i ≠ .setslen b) (hplen : ∀ a, i ≠ .setplen a)
    (hbytes : ∀ a b, i ≠ .ldsalt a b ∧ i ≠ .ldpw a b) : Instr.loadsInput i = false := by
  cases i with
  | setcost b => exact absurd rfl (hcost b).1
  | setslen b => exact absurd rfl (hcost b).2
  | setplen a => exact absurd rfl (hplen a)
  | ldsalt a b => exact absurd rfl (hbytes a b).1
  | ldpw a b => exact absurd rfl (hbytes a b).2
  | _ => rfl

theorem Effect.tstate_of_load (he : Effect s i u) (h : Instr.loadsInput i = true) :
    u.tstate = s.tstate.demoted := by
  cases he with
  | setcost | setslen | setplen | ldsalt | ldpw => rfl
  | _ => cases h

theorem Effect.tstate_eq (he : Effect s i u) (hload : Instr.loadsInput i = false) (hclr : i ≠ .clr)
    (hinit : i ≠ .init) (hxkey : ∀ k x, i ≠ .xkey k x) (hgenkeys : i ≠ .genkeys) (hhash : i ≠ .hash) :
    u.tstate = s.tstate := by
  cases he with
  | setcost | setslen | setplen | ldsalt | ldpw => cases hload
  | clr => exact absurd rfl hclr
  | init => exact absurd rfl hinit
  | xkey k x => exact absurd rfl (hxkey k x)
  | genkeys => exact absurd rfl hgenkeys
  | hash => exact absurd rfl hhash
  | _ => rfl

theorem TState.demoted_cases (x : TState) : x.demoted = x ∨ (x = .final ∧ x.demoted = .mixed) := by
  cases x <;> decide

/-! ## Commands whose outcome is known beforehand -/

/-- A command whose checks pass makes its change and responds `STATUS`. -/
theorem Effect.exec_eq (he : Effect s i u) : exec i s = .next u.answeringStatus := by
  cases he with
  | nop | clr | clrerr | init | rdstat => rfl
  | setcost b => exact (congrArg accept (State.demote_eq _)).trans (accept_eq _)
  | setslen b => exact (congrArg accept (State.demote_eq _)).trans (accept_eq _)
  | setplen a h =>
    show execSetplen a s = _
    rw [execSetplen, if_neg (not_lt.2 h), State.demote_eq, accept_eq]
  | setdlen a h =>
    show execSetdlen a s = _
    rw [execSetdlen, if_neg (not_lt.2 h), accept_eq]
  | ldsalt a b h =>
    show execLdsalt a b s = _
    rw [execLdsalt, if_neg (not_le.2 h), State.demote_eq, accept_eq]
  | ldpw a b h =>
    show execLdpw a b s = _
    rw [execLdpw, if_neg (not_le.2 h), State.demote_eq, accept_eq]
  | ldd a b h =>
    show execLdd a b s = _
    rw [execLdd, if_neg (not_le.2 h), accept_eq]
  | xkey k x h h₁ h₂ => exact exec_xkey_completes k x h h₁ h₂
  | genkeys h h₁ => exact exec_genkeys_completes h h₁
  | encblk a h h₁ =>
    show execEncblk a s = _
    rw [execEncblk, if_neg h, if_pos (show s.blockInside a = true from decide_eq_true h₁), accept_eq]
  | encbuf h =>
    show execEncbuf s = _
    rw [execEncbuf, if_neg h]
    rfl
  | encode h h₁ => exact exec_encode_completes h h₁
  | hash h => exact exec_hash_completes h

/-- ENCODE needs finished tables (43 R175). -/
theorem exec_encode_stale (h : s.tstate ≠ .final) : exec .encode s =
    .next (s.dropResult.errored ErrKind.tablesState.code).answeringStatus := by
  show execEncode s = _
  rw [execEncode, if_pos h, reject_eq]

/-- With `OLEN = 0` no byte of `OUT` can be read (44 R205). -/
theorem exec_rdout_of_olen_zero (h : s.olen = 0) (a : Half) : exec (.rdout a) s =
    .next ((s.errored ErrKind.badIndex.code).answering 0) := by
  show execRdout a s = _
  rw [execRdout, if_pos (by simp [h]), rejectRead_eq]

end

/-! ## The statements -/

/-- Settles O53. -/
theorem tablesChangedOnlyByTheKeySchedule : Obligations.TablesChangedOnlyByTheKeySchedule :=
  fun _ s hinit hxkey hgenkeys hhash hclr =>
    exec_answers_of (P := fun t => t.tab = s.tab) (fun _ h => h) (fun _ h => h) rfl (fun _ => rfl)
      fun he => he.tab_eq hclr hinit hxkey hgenkeys hhash

/-- Settles O54. -/
theorem inputsWrittenOnlyByTheirLoads : Obligations.InputsWrittenOnlyByTheirLoads := by
  intro i s hclr
  exact exec_answers_of (fun _ h => h) (fun _ h => h)
    ⟨fun _ => rfl, fun _ => rfl, fun _ => rfl, fun _ => rfl, fun _ => rfl⟩
    (fun _ => ⟨fun _ => rfl, fun _ => rfl, fun _ => rfl, fun _ => rfl, fun _ => rfl⟩)
    fun he => ⟨he.cost_eq hclr, he.slen_eq hclr, he.salt_eq hclr, he.plen_eq hclr, he.pw_eq hclr⟩

/-- Settles O55. -/
theorem buffersWrittenOnlyByTheirCommands : Obligations.BuffersWrittenOnlyByTheirCommands := by
  intro i s hclr hencode hhash
  exact exec_answers_of (fun _ h => h) (fun _ h => h) ⟨rfl, rfl, fun _ _ => rfl, fun _ _ _ => rfl⟩
    (fun h => absurd h (not_or.2 ⟨hencode, hhash⟩))
    fun he => ⟨he.out_eq hclr hencode hhash, he.olen_eq hclr hencode hhash,
      he.dlen_eq hclr hencode hhash, he.d_eq hclr hencode hhash⟩

/-- Settles O56: CLR and INIT have no way to fail; every other command that fails leaves the tag, and one
that completes has the effect its clause names. -/
theorem tagTransitions : Obligations.TagTransitions := by
  intro i s
  by_cases hclr : i = .clr
  · subst hclr
    exact ⟨_, rfl, by simp⟩
  by_cases hinit : i = .init
  · subst hinit
    exact ⟨_, rfl, by simp⟩
  obtain ⟨t, ht, hxkey, hwhole, hload, hrest⟩ : ∃ t, exec i s = .next t ∧
      ((∃ k x, i = .xkey k x) → t.tstate = s.tstate ∨ t.tstate = .mixed) ∧
      (i = .genkeys ∨ i = .hash → t.tstate = s.tstate ∨ t.tstate = .final) ∧
      (Instr.loadsInput i = true → t.tstate = s.tstate ∨ (s.tstate = .final ∧ t.tstate = .mixed)) ∧
      (Instr.loadsInput i = false → (∀ k x, i ≠ .xkey k x) → i ≠ .genkeys → i ≠ .hash →
        t.tstate = s.tstate) := by
    refine exec_answers_of (fun _ h => h) (fun _ h => h)
      ⟨fun _ => .inl rfl, fun _ => .inl rfl, fun _ => .inl rfl, fun _ _ _ _ => rfl⟩
      (fun _ => ⟨fun _ => .inl rfl, fun _ => .inl rfl, fun _ => .inl rfl, fun _ _ _ _ => rfl⟩)
      fun he => ⟨?_, ?_, fun h => ?_, fun h => he.tstate_eq h hclr hinit⟩
    · rintro ⟨k, x, rfl⟩
      cases he
      exact .inr rfl
    · rintro (rfl | rfl) <;> cases he <;> exact .inr rfl
    · rw [he.tstate_of_load h]
      exact s.tstate.demoted_cases
  refine ⟨t, ht, (absurd · hclr), (absurd · hinit), hxkey, hwhole, ?_, ?_⟩
  · rintro ⟨a, b, rfl | rfl | rfl | rfl | rfl⟩ <;> exact hload rfl
  · intro _ _ hx hg hh h₁ h₂ h₃
    exact hrest (loadsInput_eq_false h₁ h₂ h₃) hx hg hh

/-- Settles O29: the load has the effect of a load, which demotes FINAL to MIXED, and ENCODE needs FINAL. -/
theorem reloadOfAnInputStalesTheTables : Obligations.ReloadOfAnInputStalesTheTables := by
  intro i s hi hfinal herr
  obtain ⟨u, he, hload⟩ : ∃ u, Effect s i u ∧ Instr.loadsInput i = true := by
    rcases hi with ⟨b, rfl | rfl⟩ | ⟨a, rfl, ha⟩ | ⟨a, b, rfl, ha⟩ | ⟨a, b, rfl, ha⟩
    · exact ⟨_, .setcost b, rfl⟩
    · exact ⟨_, .setslen b, rfl⟩
    · exact ⟨_, .setplen a ha, rfl⟩
    · exact ⟨_, .ldsalt a b ha, rfl⟩
    · exact ⟨_, .ldpw a b ha, rfl⟩
  have hmixed : u.tstate = .mixed := by rw [he.tstate_of_load hload, hfinal]; rfl
  have herr' : u.err = false := by rw [he.err_eq (by rintro rfl; cases hload), herr]
  refine ⟨_, _, he.exec_eq, hmixed, herr', exec_encode_stale (by simp [hmixed]), ?_, rfl⟩
  simp [herr', ErrKind.code]

/-- Settles O34: an ENCODE or HASH that completes records no error, so one that does has dropped its
result. -/
theorem failedHashLeavesNoReadableString : Obligations.FailedHashLeavesNoReadableString := by
  intro i s t hi herr ht hterr
  have hresponds : Instr.responds i = false := by rcases hi with rfl | rfl <;> rfl
  have h := exec_ending i s
  rw [ht] at h
  cases h with
  | changed he _ =>
    have : s.err = true := (he.err_eq (by rintro rfl; simp at hi)).symm.trans hterr
    simp [herr] at this
  | failed k _ _ h => exact absurd hi (not_or.2 h)
  | dropped k _ _ =>
    exact ⟨rfl, rfl, fun a => ⟨_, exec_rdout_of_olen_zero rfl a, by simp [State.lastResponse]⟩⟩
  | readFailed k _ h => simp [hresponds] at h
  | read v h => simp [hresponds] at h

end Sys2Proof.Machine
end

section
/-!
SUPPORT. Two states on which the checks of the commands agree: every command ends in the same way from
both. What cannot be observed is derived from `exec_related`.
-/

namespace Sys2Proof.Machine

/-- The two states agree on all that the check of a command reads: the parameters, the tag, the lengths
and `COST`. -/
structure SameChecks (s s' : State) : Prop where
  cfg : s'.cfg = s.cfg
  tstate : s'.tstate = s.tstate
  cost : s'.cost = s.cost
  slen : s'.slen = s.slen
  plen : s'.plen = s.plen
  dlen : s'.dlen = s.dlen
  olen : s'.olen = s.olen

/-- The value a read responds when it completes (44 R201 to R205); 0 where the command is no read. -/
def State.readValue (s : State) : Instr → Word
  | .rdlen a => (s.lengthRegister a).getD 0
  | .rdp a => if h : a.toNat < 18 then s.tab.p.get ⟨a.toNat, h⟩ else 0
  | .rds a => if h : a.toNat < 1024 then s.tab.sAt a.toNat h else 0
  | .rdd a => (s.d.read a.toNat).setWidth 32
  | .rdout a => (s.out.read a.toNat).setWidth 32
  | .nop | .clr | .clrerr | .setcost _ | .setslen _ | .setplen _ | .setdlen _ | .ldsalt _ _
  | .ldpw _ _ | .ldd _ _ | .init | .xkey _ _ | .genkeys | .encblk _ | .encbuf | .encode | .hash
  | .rdstat => 0

/-- The two reads of a table word. -/
def Instr.readsTables : Instr → Prop
  | .rdp _ | .rds _ => True
  | _ => False

/-- A command that ends in the same one of the five ways of `Ending` from two states. -/
inductive Alike (s s' : State) (i : Instr) : Result → Result → Prop where
  | changed {u u' : State} (h : Effect s i u) (h' : Effect s' i u') :
      Alike s s' i (.next u.answeringStatus) (.next u'.answeringStatus)
  | failed (k : ErrKind) : Alike s s' i
      (.next (s.errored k.code).answeringStatus) (.next (s'.errored k.code).answeringStatus)
  | dropped (k : ErrKind) : Alike s s' i
      (.next (s.dropResult.errored k.code).answeringStatus)
      (.next (s'.dropResult.errored k.code).answeringStatus)
  | readFailed (k : ErrKind) : Alike s s' i
      (.next ((s.errored k.code).answering 0)) (.next ((s'.errored k.code).answering 0))
  | read (h : Instr.readsTables i → s.tstate ≠ .uninit) : Alike s s' i
      (.next (s.answering (s.readValue i))) (.next (s'.answering (s'.readValue i)))

section

variable {s s' : State} {i : Instr}

theorem alike_reject (k : ErrKind) : Alike s s' i (reject k s) (reject k s') := by
  rw [reject_eq, reject_eq]; exact .failed k

theorem alike_drop (k : ErrKind) : Alike s s' i (reject k s.dropResult) (reject k s'.dropResult) := by
  rw [reject_eq, reject_eq]; exact .dropped k

theorem alike_rejectRead (k : ErrKind) : Alike s s' i (rejectRead k s) (rejectRead k s') := by
  rw [rejectRead_eq, rejectRead_eq]; exact .readFailed k

theorem SameChecks.validate_eq (h : SameChecks s s') (u : Uses) : s'.validate u = s.validate u :=
  State.validate_congr u h.cfg h.cost h.slen h.plen

theorem SameChecks.lengthRegister_eq (h : SameChecks s s') (a : Half) :
    s'.lengthRegister a = s.lengthRegister a := by
  simp only [State.lengthRegister, h.plen, h.dlen, h.olen, h.slen, h.cost]

theorem SameChecks.inputsValid (h : SameChecks s s') (hv : s.InputsValid) : s'.InputsValid := by
  rw [← State.validate_all_none] at hv ⊢
  rwa [h.validate_eq]

theorem alike_accept {u u' : State} (he : Effect s i u) (he' : Effect s' i u') :
    Alike s s' i (accept u) (accept u') := .changed he he'

theorem alike_demote {u u' : State} (he : Effect s i { u with tstate := u.tstate.demoted })
    (he' : Effect s' i { u' with tstate := u'.tstate.demoted }) :
    Alike s s' i (accept u.demote) (accept u'.demote) := by
  rw [State.demote_eq, State.demote_eq]; exact .changed he he'

/-- The same value read in both states, under the same check. -/
theorem alike_read {r r' : Result} (h : Instr.readsTables i → s.tstate ≠ .uninit)
    (hr : r = .next (s.answering (s.readValue i))) (hr' : r' = .next (s'.answering (s'.readValue i))) :
    Alike s s' i r r' := by
  rw [hr, hr']; exact .read h

/-- The same check on both sides, and a like ending in either branch. -/
theorem alike_ite {c c' : Prop} [Decidable c] [Decidable c'] {r₁ r₂ r₁' r₂' : Result} (hc : c' ↔ c)
    (ht : c → Alike s s' i r₁ r₁') (he : ¬c → Alike s s' i r₂ r₂') :
    Alike s s' i (if c then r₁ else r₂) (if c' then r₁' else r₂') := by
  by_cases h : c
  · rw [if_pos h, if_pos (hc.2 h)]; exact ht h
  · rw [if_neg h, if_neg (mt hc.1 h)]; exact he h

/-- Every command ends in the same way from two states on which its check agrees. -/
theorem exec_alike (h : SameChecks s s') (i : Instr) : Alike s s' i (exec i s) (exec i s') := by
  have huninit : s'.tstate = .uninit ↔ s.tstate = .uninit := by rw [h.tstate]
  cases i with
  | nop => exact alike_accept .nop .nop
  | clr => exact alike_accept .clr .clr
  | clrerr => exact alike_accept .clrerr .clrerr
  | setcost b => exact alike_demote (.setcost b) (.setcost b)
  | setslen b => exact alike_demote (.setslen b) (.setslen b)
  | setplen a =>
    refine alike_ite (by rw [h.cfg]) (fun _ => alike_reject _) fun ha => ?_
    exact alike_demote (.setplen a (not_lt.1 ha)) (.setplen a (h.cfg ▸ not_lt.1 ha))
  | setdlen a =>
    refine alike_ite (by rw [h.cfg]) (fun _ => alike_reject _) fun ha => ?_
    exact alike_accept (.setdlen a (not_lt.1 ha)) (.setdlen a (h.cfg ▸ not_lt.1 ha))
  | ldsalt a b =>
    refine alike_ite Iff.rfl (fun _ => alike_reject _) fun ha => ?_
    exact alike_demote (.ldsalt a b (not_le.1 ha)) (.ldsalt a b (not_le.1 ha))
  | ldpw a b =>
    refine alike_ite (by rw [h.cfg]) (fun _ => alike_reject _) fun ha => ?_
    exact alike_demote (.ldpw a b (not_le.1 ha)) (.ldpw a b (h.cfg ▸ not_le.1 ha))
  | ldd a b =>
    refine alike_ite (by rw [h.cfg]) (fun _ => alike_reject _) fun ha => ?_
    exact alike_accept (.ldd a b (not_le.1 ha)) (.ldd a b (h.cfg ▸ not_le.1 ha))
  | init => exact alike_accept .init .init
  | xkey k x =>
    refine alike_ite huninit (fun _ => alike_reject _) fun ht => ?_
    refine alike_ite (by rw [h.slen]) (fun _ => alike_reject _) fun hsalt => ?_
    refine alike_ite (by rw [h.plen]) (fun _ => alike_reject _) fun hpw => ?_
    have hsalt' : (k = .salt ∨ x = .real) → s.slen.toNat = 16 :=
      fun e => by_contra fun n => hsalt ⟨e, n⟩
    have hpw' : k = .password → s.plen.toNat ≠ 0 := fun e n => hpw ⟨e, n⟩
    exact alike_accept (.xkey k x ht hsalt' hpw')
      (.xkey k x (h.tstate ▸ ht) (h.slen ▸ hsalt') (h.plen ▸ hpw'))
  | genkeys =>
    refine alike_ite (by rw [h.tstate]) (fun _ => alike_reject _) fun ht => ?_
    rw [h.validate_eq]
    split
    · exact alike_reject _
    · have hv := s.validate_all_none.1 ‹_›
      exact alike_accept (.genkeys (not_not.1 ht) hv)
        (.genkeys (h.tstate.trans (not_not.1 ht)) (h.inputsValid hv))
  | encblk a =>
    refine alike_ite huninit (fun _ => alike_reject _) fun ht => ?_
    refine alike_ite (by rw [State.blockInside, State.blockInside, h.dlen]) (fun ha => ?_)
      fun _ => alike_reject _
    have hin := of_decide_eq_true ha
    exact alike_accept (.encblk a ht hin) (.encblk a (h.tstate ▸ ht) (h.dlen ▸ hin))
  | encbuf =>
    refine alike_ite huninit (fun _ => alike_reject _) fun ht => ?_
    exact alike_accept (.encbuf ht) (.encbuf (h.tstate ▸ ht))
  | encode =>
    refine alike_ite (by rw [h.tstate]) (fun _ => alike_drop _) fun ht => ?_
    rw [h.validate_eq]
    split
    · exact alike_drop _
    · exact alike_accept (.encode (not_not.1 ht) ‹_›)
        (.encode (h.tstate.trans (not_not.1 ht)) ((h.validate_eq _).trans ‹_›))
  | hash =>
    simp only [exec, execHash, h.validate_eq]
    split
    · exact alike_drop _
    · have hv := s.validate_all_none.1 ‹_›
      exact alike_accept (.hash hv) (.hash (h.inputsValid hv))
  | rdstat => exact alike_accept .rdstat .rdstat
  | rdlen a =>
    simp only [exec, execRdlen, h.lengthRegister_eq]
    cases hv : s.lengthRegister a with
    | some v =>
      have hval : s.readValue (.rdlen a) = v := by rw [State.readValue, hv]; rfl
      have hval' : s'.readValue (.rdlen a) = v := by rw [State.readValue, h.lengthRegister_eq, hv]; rfl
      exact alike_read (nomatch ·) (by rw [hval]; rfl) (by rw [hval']; rfl)
    | none => exact alike_rejectRead _
  | rdp a =>
    refine alike_ite huninit (fun _ => alike_rejectRead _) fun ht => ?_
    split
    · exact alike_read (fun _ => ht) (by rw [State.readValue, dif_pos]; rfl)
        (by rw [State.readValue, dif_pos]; rfl)
    · exact alike_rejectRead _
  | rds a =>
    refine alike_ite huninit (fun _ => alike_rejectRead _) fun ht => ?_
    split
    · exact alike_read (fun _ => ht) (by rw [State.readValue, dif_pos]; rfl)
        (by rw [State.readValue, dif_pos]; rfl)
    · exact alike_rejectRead _
  | rdd a =>
    refine alike_ite (by rw [h.cfg]) (fun _ => alike_rejectRead _) fun _ => ?_
    exact alike_read (nomatch ·) rfl rfl
  | rdout a =>
    refine alike_ite (by rw [h.olen]) (fun _ => alike_rejectRead _) fun _ => ?_
    exact alike_read (nomatch ·) rfl rfl

/-- A relation of two states that responses and recorded errors keep holds after a command when the
command's effects, and the values it reads, are related. -/
theorem exec_related {R : State → State → Prop} (h : SameChecks s s')
    (answering : ∀ {u u' : State} (r : Word), R u u' → R (u.answering r) (u'.answering r))
    (status : ∀ {u u' : State}, R u u' → R u.answeringStatus u'.answeringStatus)
    (errored : ∀ {u u' : State} (c : BitVec 4), R u u' → R (u.errored c) (u'.errored c))
    (start : R s s') (drop : R s.dropResult s'.dropResult)
    (value : (Instr.readsTables i → s.tstate ≠ .uninit) → s'.readValue i = s.readValue i)
    (effect : ∀ {u u' : State}, Effect s i u → Effect s' i u' → R u u') :
    ∃ t t', exec i s = .next t ∧ exec i s' = .next t' ∧ R t t' := by
  have ha := exec_alike h i
  generalize exec i s = r, exec i s' = r' at ha
  cases ha with
  | changed he he' => exact ⟨_, _, rfl, rfl, status (effect he he')⟩
  | failed k => exact ⟨_, _, rfl, rfl, status (errored _ start)⟩
  | dropped k => exact ⟨_, _, rfl, rfl, status (errored _ drop)⟩
  | readFailed k => exact ⟨_, _, rfl, rfl, answering _ (errored _ start)⟩
  | read hv => exact ⟨_, _, rfl, rfl, value hv ▸ answering _ start⟩

end

/-- A relation that every command keeps is kept by every run. -/
theorem runCommands_related {R : State → State → Prop}
    (exec_keeps : ∀ {i : Instr} {s s' : State}, R s s' →
      ∃ t t', exec i s = .next t ∧ exec i s' = .next t' ∧ R t t')
    (is : List Instr) {s s' : State} (h : R s s') :
    ∃ t t', runCommands is s = .next t ∧ runCommands is s' = .next t' ∧ R t t' := by
  induction is generalizing s s' with
  | nil => exact ⟨s, s', rfl, rfl, h⟩
  | cons i is ih =>
    obtain ⟨t, t', ht, ht', hr⟩ := exec_keeps (i := i) h
    rw [runCommands_cons ht, runCommands_cons ht']
    exact ih hr

/-! ## The inputs of the key schedule -/

/-- The two states agree on the keys and salts of the key schedule: `PW[0..PLEN-1]` and `SALT`. -/
structure SameKeys (s s' : State) : Prop where
  plen : s'.plen = s.plen
  salt : s'.salt = s.salt
  pw : ∀ k < s.plen.toNat, s'.pw.read k = s.pw.read k

section

variable {s s' : State} (h : SameKeys s s')
include h

theorem SameKeys.passwordBytes_eq : s'.passwordBytes = s.passwordBytes := by
  rw [State.passwordBytes, h.plen]
  exact Memory.readN_congr fun k _ hk => h.pw k (by rwa [Nat.zero_add] at hk)

theorem SameKeys.saltBytes_eq : s'.saltBytes = s.saltBytes := by
  rw [State.saltBytes, h.salt, State.saltBytes]

/-- The pass of XKEY (42 R159). -/
theorem SameKeys.expandKey_eq (t : Tables) (k : KeySource) (x : SaltSource) :
    expandKey t (s'.keyBytes k) (s'.keyLen k) (s'.mixSalt x) =
      expandKey t (s.keyBytes k) (s.keyLen k) (s.mixSalt x) := by
  have hkey : s'.keyBytes k = s.keyBytes k := by
    cases k with
    | password => exact h.passwordBytes_eq
    | salt => exact h.saltBytes_eq
  have hlen : s'.keyLen k = s.keyLen k := by
    cases k with
    | password => exact congrArg BitVec.toNat h.plen
    | salt => rfl
  have hsalt : s'.mixSalt x = s.mixSalt x := by
    cases x with
    | zero => rfl
    | real => exact h.saltBytes_eq
  rw [hkey, hlen, hsalt]

theorem SameKeys.stretch_eq (hcost : s'.cost = s.cost) (t : Tables) : s'.stretch t = s.stretch t := by
  rw [State.stretch, h.passwordBytes_eq, h.saltBytes_eq, h.plen, hcost, State.stretch]

end

/-! ## The error record -/

/-- The second state differs at most in the error record and in the responses, which show it. -/
def SameButRecord (s s' : State) : Prop :=
  ∃ e c rs, s' = { s with err := e, errcode := c, responses := rs }

theorem SameButRecord.tables {s s' : State} (h : SameButRecord s s') (tab : Tables) (ts : TState) :
    SameButRecord { s with tab := tab, tstate := ts } { s' with tab := tab, tstate := ts } := by
  obtain ⟨e, c, rs, rfl⟩ := h
  exact ⟨e, c, rs, rfl⟩

/-- No check and no effect reads the error record (10 R30, 60 R226). -/
theorem exec_keeps_sameButRecord {i : Instr} {s s' : State} (h : SameButRecord s s') :
    ∃ t t', exec i s = .next t ∧ exec i s' = .next t' ∧ SameButRecord t t' := by
  have start := h
  obtain ⟨e, c, rs, rfl⟩ := h
  have hkeys : SameKeys s { s with err := e, errcode := c, responses := rs } :=
    ⟨rfl, rfl, fun _ _ => rfl⟩
  refine exec_related ⟨rfl, rfl, rfl, rfl, rfl, rfl, rfl⟩ ?_ ?_ ?_ start ⟨_, _, _, rfl⟩ ?_ ?_
  · rintro u _ r ⟨e, c, rs, rfl⟩
    exact ⟨_, _, _, rfl⟩
  · rintro u _ ⟨e, c, rs, rfl⟩
    exact ⟨_, _, _, rfl⟩
  · rintro u _ k ⟨e, c, rs, rfl⟩
    exact ⟨_, _, _, rfl⟩
  · intro _
    cases i <;> rfl
  · intro u u' he he'
    cases he with
    | xkey k x => cases he'; rw [hkeys.expandKey_eq]; exact start.tables _ _
    | _ => cases he'; exact ⟨_, _, _, rfl⟩

/-- Settles O16: the two states stay the same but for the record and the responses over every command, by
induction on the list. -/
theorem errorRecordDoesNotSteerARun : Obligations.ErrorRecordDoesNotSteerARun := by
  intro is s e c
  obtain ⟨t, u, ht, hu, e', c', rs, rfl⟩ :=
    runCommands_related exec_keeps_sameButRecord is (s := s) ⟨e, c, _, rfl⟩
  exact ⟨t, _, ht, hu, rfl⟩

/-! ## The table words of an UNINIT state -/

/-- The second state differs at most in its table words, and in these only while they are undefined. -/
def SameOnceDefined (s s' : State) : Prop :=
  ∃ tab, s' = { s with tab := tab } ∧ (s.tstate ≠ .uninit → tab = s.tab)

/-- On UNINIT tables a command either does not read a table word or fails (10 R28). -/
theorem Effect.sameOnceDefined {i : Instr} {s u u' : State} {tab : Tables} (hs : s.tstate = .uninit)
    (he : Effect s i u) (he' : Effect { s with tab := tab } i u') : SameOnceDefined u u' := by
  have hdemoted : s.tstate.demoted = .uninit := by rw [hs]; rfl
  cases he with
  | xkey _ _ h | encblk _ h | encbuf h => exact absurd hs h
  | genkeys h | encode h => simp [hs] at h
  | clr | init | hash => cases he'; exact ⟨_, rfl, fun _ => rfl⟩
  | setcost | setslen | setplen | ldsalt | ldpw =>
    cases he'; exact ⟨tab, rfl, fun h => absurd hdemoted h⟩
  | nop | clrerr | setdlen | ldd | rdstat => cases he'; exact ⟨tab, rfl, fun h => absurd hs h⟩

theorem exec_keeps_sameOnceDefined {i : Instr} {s s' : State} (h : SameOnceDefined s s') :
    ∃ t t', exec i s = .next t ∧ exec i s' = .next t' ∧ SameOnceDefined t t' := by
  have start := h
  obtain ⟨tab, rfl, hdefined⟩ := h
  by_cases hs : s.tstate = .uninit
  · refine exec_related ⟨rfl, rfl, rfl, rfl, rfl, rfl, rfl⟩ ?_ ?_ ?_ start ⟨tab, rfl, hdefined⟩ ?_
      (Effect.sameOnceDefined hs)
    · rintro u _ r ⟨tab, rfl, h⟩
      exact ⟨tab, rfl, h⟩
    · rintro u _ ⟨tab, rfl, h⟩
      exact ⟨tab, rfl, h⟩
    · rintro u _ k ⟨tab, rfl, h⟩
      exact ⟨tab, rfl, h⟩
    · intro hv
      cases i with
      | rdp a | rds a => exact absurd hs (hv trivial)
      | _ => rfl
  · obtain rfl := hdefined hs
    obtain ⟨t, ht⟩ := exec_answers_next i s
    exact ⟨t, t, ht, ht, t.tab, rfl, fun _ => rfl⟩

/-- Settles O57: over every command the two states stay the same but for table words that are undefined,
by induction on the list. -/
theorem unspecifiedTableWordsAreUnobservable : Obligations.UnspecifiedTableWordsAreUnobservable := by
  intro is s tab hs
  obtain ⟨t, u, ht, hu, tab', rfl, hdefined⟩ :=
    runCommands_related exec_keeps_sameOnceDefined is (s := s) ⟨tab, rfl, fun h => absurd hs h⟩
  exact ⟨t, _, ht, hu, rfl, rfl, hdefined⟩

/-! ## The password bytes from `PLEN` on -/

/-- The second state differs at most in the password bytes. -/
def SameButPassword (s s' : State) : Prop := ∃ pw, s' = { s with pw := pw }

theorem SameButPassword.tables {s s' : State} (h : SameButPassword s s') (tab : Tables) (ts : TState) :
    SameButPassword { s with tab := tab, tstate := ts } { s' with tab := tab, tstate := ts } := by
  obtain ⟨pw, rfl⟩ := h
  exact ⟨pw, rfl⟩

/-- The key schedule reads `PW[0..PLEN-1]` alone (10 R27); no other effect reads the password. -/
theorem Effect.sameButPassword {i : Instr} {s u u' : State} {pw : Memory}
    (h : ∀ k < s.plen.toNat, pw.read k = s.pw.read k)
    (he : Effect s i u) (he' : Effect { s with pw := pw } i u') : SameButPassword u u' := by
  have start : SameButPassword s { s with pw := pw } := ⟨pw, rfl⟩
  have hkeys : SameKeys s { s with pw := pw } := ⟨rfl, rfl, h⟩
  cases he with
  | xkey k x => cases he'; rw [hkeys.expandKey_eq]; exact start.tables _ _
  | genkeys | hash => cases he'; rw [hkeys.stretch_eq rfl]; exact ⟨pw, rfl⟩
  | _ => cases he'; exact ⟨_, rfl⟩

/-- Settles O59. -/
theorem passwordBytesBeyondTheLengthAreIgnored :
    Obligations.PasswordBytesBeyondTheLengthAreIgnored := by
  intro i s pw h
  obtain ⟨t, u, ht, hu, pw', rfl⟩ := exec_related (R := SameButPassword) (i := i) (s := s)
    (s' := { s with pw := pw }) ⟨rfl, rfl, rfl, rfl, rfl, rfl, rfl⟩
    (by rintro u _ r ⟨pw, rfl⟩; exact ⟨pw, rfl⟩) (by rintro u _ ⟨pw, rfl⟩; exact ⟨pw, rfl⟩)
    (by rintro u _ k ⟨pw, rfl⟩; exact ⟨pw, rfl⟩) ⟨pw, rfl⟩ ⟨pw, rfl⟩
    (fun _ => by cases i <;> rfl) (Effect.sameButPassword h)
  exact ⟨t, _, ht, hu, rfl⟩

end Sys2Proof.Machine
end

section
/-!
SUPPORT. The secret inputs: `SALT` and `PW` have no read command (spec/20_memory.md R69), and nothing a
command responds is derived from them while it runs.
-/

namespace Sys2Proof.Machine

/-- The second state differs at most in `SALT` and `PW` and in what the key schedule and the encoder derive
from them: the tables, `D` with `DLEN`, and the bytes of `OUT`. `STATUS` and the responses show none of
these. -/
def SameButSecrets (s s' : State) : Prop :=
  ∃ tab salt pw dlen d out,
    s' = { s with tab := tab, salt := salt, pw := pw, dlen := dlen, d := d, out := out }

/-- `STATUS` shows the parameters, the tag, `COST`, `SLEN`, `OLEN` and the error record alone (10 R29). -/
theorem SameButSecrets.status_eq {s s' : State} (h : SameButSecrets s s') : s'.status = s.status := by
  obtain ⟨_, _, _, _, _, _, rfl⟩ := h
  exact State.status_congr rfl rfl rfl rfl rfl rfl rfl

theorem SameButSecrets.responses_eq {s s' : State} (h : SameButSecrets s s') :
    s'.responses = s.responses := by
  obtain ⟨_, _, _, _, _, _, rfl⟩ := h
  rfl

theorem SameButSecrets.answering {s s' : State} (h : SameButSecrets s s') (r : Word) :
    SameButSecrets (s.answering r) (s'.answering r) := by
  obtain ⟨_, _, _, _, _, _, rfl⟩ := h
  exact ⟨_, _, _, _, _, _, rfl⟩

theorem SameButSecrets.answeringStatus {s s' : State} (h : SameButSecrets s s') :
    SameButSecrets s.answeringStatus s'.answeringStatus := by
  show SameButSecrets (s.answering s.status) (s'.answering s'.status)
  rw [h.status_eq]
  exact h.answering _

theorem SameButSecrets.errored {s s' : State} (h : SameButSecrets s s') (c : BitVec 4) :
    SameButSecrets (s.errored c) (s'.errored c) := by
  obtain ⟨_, _, _, _, _, _, rfl⟩ := h
  exact ⟨_, _, _, _, _, _, rfl⟩

/-- No read answers a byte of `SALT` or `PW` (20 R69). -/
theorem readValue_of_secrets (s : State) (salt pw : Memory) (i : Instr) :
    ({ s with salt := salt, pw := pw } : State).readValue i = s.readValue i := by
  cases i <;> rfl

/-- The key schedule, and with it the encoder, carries `SALT` and `PW` no further than the tables, the data
buffer and the bytes of `OUT`. -/
theorem Effect.sameButSecrets {i : Instr} {s u u' : State} {salt pw : Memory} (he : Effect s i u)
    (he' : Effect { s with salt := salt, pw := pw } i u') : SameButSecrets u u' := by
  cases he with
  | _ => cases he'; exact ⟨_, _, _, _, _, _, rfl⟩

/-- Settles O58: the checks of a command and the value it reads are the same in both states, and its
effects differ in secrets alone. -/
theorem secretsCannotBeReadBack : Obligations.SecretsCannotBeReadBack := by
  intro i s salt pw
  obtain ⟨t, u, ht, hu, h⟩ := exec_related (R := SameButSecrets) (i := i) (s := s)
    (s' := { s with salt := salt, pw := pw }) ⟨rfl, rfl, rfl, rfl, rfl, rfl, rfl⟩
    (fun r h => h.answering r) (fun h => h.answeringStatus) (fun c h => h.errored c)
    ⟨_, _, _, _, _, _, rfl⟩ ⟨_, _, _, _, _, _, rfl⟩ (fun _ => readValue_of_secrets s salt pw i)
    Effect.sameButSecrets
  exact ⟨t, u, ht, hu, h.responses_eq⟩

end Sys2Proof.Machine
end

section
/-!
SUPPORT. A system of several engines (spec/60_exceptions.md R231, spec/20_memory.md R76): a step of one
reads and writes its own state alone.
-/

namespace Sys2Proof.Machine

theorem System.stepEngine_of_some {sys : System} {n : Nat} {s t : State}
    (h : sys.engines[n]? = some s) (ht : step s = .next t) :
    sys.stepEngine n = .next { engines := sys.engines.set n t } := by
  simp only [System.stepEngine, h, ht]

theorem System.stepEngine_of_none {sys : System} {n : Nat} (h : sys.engines[n]? = none) :
    sys.stepEngine n = .next sys := by
  simp only [System.stepEngine, h]

/-- A step of engine `n` writes the place of `n` alone, and what it writes is the same in every system
that has the same engine `n`. Where there is no engine `n`, nothing is written. -/
theorem System.stepEngine_sets (sys : System) (n : Nat) : ∃ t, ∀ sys' : System,
    sys'.engines[n]? = sys.engines[n]? →
      sys'.stepEngine n = .next { engines := sys'.engines.set n t } := by
  cases h : sys.engines[n]? with
  | some s =>
    obtain ⟨t, ht⟩ := step_answers_next s
    exact ⟨t, fun _ h' => System.stepEngine_of_some h' ht⟩
  | none =>
    refine ⟨State.reset, fun sys' h' => ?_⟩
    rw [System.stepEngine_of_none h', List.set_eq_of_length_le (List.getElem?_eq_none_iff.1 h')]

/-- Settles O60: each of the two steps sets one place of the list of engines, to the same state before and
after the other step, and the two places differ. -/
theorem instancesAreIndependent : Obligations.InstancesAreIndependent := by
  intro sys m n hmn
  obtain ⟨t, ht⟩ := sys.stepEngine_sets m
  obtain ⟨u, hu⟩ := sys.stepEngine_sets n
  have hn : (sys.engines.set m t)[n]? = sys.engines[n]? := List.getElem?_set_ne hmn
  have hm : (sys.engines.set n u)[m]? = sys.engines[m]? := List.getElem?_set_ne hmn.symm
  refine ⟨⟨_, ht sys rfl, hn⟩, _, _, _, ht sys rfl, hu _ hn, hu sys rfl, ?_⟩
  rw [ht _ hm, List.set_comm _ _ hmn]

end Sys2Proof.Machine
end

section
/-!
SUPPORT. The decoder and the encoder are inverse, and the words that decode are the legal ones
(spec/30_encoding.md R90 to R96, R101).
-/

namespace Sys2Proof

/-- The three fields of the word of a command (R93). -/
def Instr.fields (i : Instr) : Fields := { op := i.opcode, a := i.fieldA, b := i.fieldB }

theorem encode_eq_of_fields {i : Instr} {w : Word} (h : i.fields = Fields.ofWord w) : encode i = w :=
  (congrArg Fields.toWord h).trans (Fields.toWord_ofWord w)

/-! ## What decodes has the fields it was decoded from -/

theorem fields_of_decodePlain {f : Fields} {i j : Instr} (h : decodePlain f i = .ok j)
    (hi : i.fields = { f with a := 0, b := 0 }) : j.fields = f := by
  simp only [decodePlain] at h
  split_ifs at h with ha hb
  cases h
  rw [hi, ← not_not.1 ha, ← not_not.1 hb]

theorem fields_of_decodeA {f : Fields} {k : Half → Instr} {j : Instr} (h : decodeA f k = .ok j)
    (hk : ∀ a, (k a).fields = { f with a := a, b := 0 }) : j.fields = f := by
  simp only [decodeA] at h
  split_ifs at h with hb
  cases h
  rw [hk, ← not_not.1 hb]

theorem fields_of_decodeB {f : Fields} {k : Byte → Instr} {j : Instr} (h : decodeB f k = .ok j)
    (hk : ∀ b, (k b).fields = { f with a := 0, b := b }) : j.fields = f := by
  simp only [decodeB] at h
  split_ifs at h with ha
  cases h
  rw [hk, ← not_not.1 ha]

theorem fields_of_decodeXkey {f : Fields} {j : Instr} (h : decodeXkey f = .ok j)
    (hop : f.op = 0x11) : j.fields = f := by
  simp only [decodeXkey] at h
  split_ifs at h with ha hb
  cases h
  simp only [Instr.fields, Instr.opcode, Instr.fieldA, Instr.fieldB,
    encodeXkeyB_decode f.b (not_not.1 hb), ← hop, ← not_not.1 ha]

/-- By the rows of the map (R93), each of one of the four operand forms; no row drops a field. -/
theorem fields_of_decodeFields {f : Fields} {i : Instr} (h : decodeFields f = .ok i) :
    i.fields = f := by
  obtain ⟨op, a, b⟩ := f
  simp only [decodeFields] at h
  split at h
  -- SETCOST, SETSLEN
  case h_4 | h_5 => exact fields_of_decodeB h fun _ => rfl
  -- SETPLEN, SETDLEN, ENCBLK and the five value reads
  case h_6 | h_7 | h_14 | h_19 | h_20 | h_21 | h_22 | h_23 =>
    exact fields_of_decodeA h fun _ => rfl
  -- LDSALT, LDPW, LDD
  case h_8 | h_9 | h_10 => cases h; rfl
  -- XKEY
  case h_12 => exact fields_of_decodeXkey h rfl
  -- no row
  case h_24 => cases h
  -- the commands without an operand
  all_goals exact fields_of_decodePlain h rfl

/-! ## A command decodes from its own fields -/

/-- By the command: the row of its opcode reads the fields it uses and finds 0 in the others. -/
theorem decodeFields_fields (i : Instr) : decodeFields i.fields = .ok i := by
  cases i with
  | xkey k x => cases k <;> cases x <;> rfl
  | _ => rfl

/-! ## The legal fields are those of a command -/

theorem Fields.wf_iff (f : Fields) : f.wf = true ↔
    f.op.toNat ∈ Fields.opcodes ∧ (f.op.toNat ∈ Fields.opcodesUsingA ∨ f.a = 0) ∧
      (f.op.toNat ∈ Fields.opcodesUsingB ∨ f.b = 0) ∧ (f.op = 0x11 → f.b.extractLsb' 2 6 = 0) := by
  simp [Fields.wf, Fields.opLegal, Fields.aLegal, Fields.bLegal, Fields.xkeyLegal, and_assoc,
    or_iff_not_imp_left]

/-- The encoding of every command is legal (R93 to R96). -/
theorem encode_wf (i : Instr) : (Fields.ofWord (encode i)).wf = true :=
  match i with
  | .nop => Laws.EncodeWellFormed.nop
  | .clr => Laws.EncodeWellFormed.clr
  | .clrerr => Laws.EncodeWellFormed.clrerr
  | .setcost b => Laws.EncodeWellFormed.setcost b
  | .setslen b => Laws.EncodeWellFormed.setslen b
  | .setplen a => Laws.EncodeWellFormed.setplen a
  | .setdlen a => Laws.EncodeWellFormed.setdlen a
  | .ldsalt a b => Laws.EncodeWellFormed.ldsalt a b
  | .ldpw a b => Laws.EncodeWellFormed.ldpw a b
  | .ldd a b => Laws.EncodeWellFormed.ldd a b
  | .init => Laws.EncodeWellFormed.init
  | .xkey k x => Laws.EncodeWellFormed.xkey k x
  | .genkeys => Laws.EncodeWellFormed.genkeys
  | .encblk a => Laws.EncodeWellFormed.encblk a
  | .encbuf => Laws.EncodeWellFormed.encbuf
  | .encode => Laws.EncodeWellFormed.encode
  | .hash => Laws.EncodeWellFormed.hash
  | .rdstat => Laws.EncodeWellFormed.rdstat
  | .rdlen a => Laws.EncodeWellFormed.rdlen a
  | .rdp a => Laws.EncodeWellFormed.rdp a
  | .rds a => Laws.EncodeWellFormed.rds a
  | .rdd a => Laws.EncodeWellFormed.rdd a
  | .rdout a => Laws.EncodeWellFormed.rdout a

theorem decodePlain_of_zero {f : Fields} (i : Instr) (ha : f.a = 0) (hb : f.b = 0) :
    decodePlain f i = .ok i := by
  rw [decodePlain, if_neg (not_not.2 ha), if_neg (not_not.2 hb)]

theorem decodeA_of_zero {f : Fields} (k : Half → Instr) (hb : f.b = 0) :
    decodeA f k = .ok (k f.a) := if_neg (not_not.2 hb)

theorem decodeB_of_zero {f : Fields} (k : Byte → Instr) (ha : f.a = 0) :
    decodeB f k = .ok (k f.b) := if_neg (not_not.2 ha)

theorem decodeXkey_of_zero {f : Fields} (ha : f.a = 0) (hb : f.b.extractLsb' 2 6 = 0) :
    decodeXkey f = .ok (.xkey (decodeKsel f.b) (decodeSsel f.b)) := by
  rw [decodeXkey, if_neg (not_not.2 ha), if_neg (not_not.2 hb)]

/-- By the rows of the map: each finds 0 in the fields its command does not use. -/
theorem decodeFields_of_wf {f : Fields} (h : f.wf = true) : ∃ i, decodeFields f = .ok i := by
  obtain ⟨hop, ha, hb, hx⟩ := f.wf_iff.1 h
  obtain ⟨op, a, b⟩ := f
  dsimp only at hop ha hb hx
  simp only [decodeFields]
  split
  -- SETCOST, SETSLEN
  case h_4 | h_5 => exact ⟨_, decodeB_of_zero _ (ha.resolve_left (by decide))⟩
  -- SETPLEN, SETDLEN, ENCBLK and the five value reads
  case h_6 | h_7 | h_14 | h_19 | h_20 | h_21 | h_22 | h_23 =>
    exact ⟨_, decodeA_of_zero _ (hb.resolve_left (by decide))⟩
  -- LDSALT, LDPW, LDD
  case h_8 | h_9 | h_10 => exact ⟨_, rfl⟩
  -- XKEY
  case h_12 => exact ⟨_, decodeXkey_of_zero (ha.resolve_left (by decide)) (hx rfl)⟩
  -- no row: against the list of opcodes
  case h_24 =>
    simp [Fields.opcodes, ← BitVec.toNat_inj] at *
    omega
  -- the commands without an operand
  all_goals
    exact ⟨_, decodePlain_of_zero _ (ha.resolve_left (by decide)) (hb.resolve_left (by decide))⟩

/-- Settles O1: a word splits back into the fields it was joined of. -/
theorem decodeOfEncodeIsTheCommand : Obligations.DecodeOfEncodeIsTheCommand := fun i => by
  rw [decode, ofWord_encode]
  exact decodeFields_fields i

/-- Settles O3: the legal words by the rows of the map; a word that decodes is the encoding of a command,
which is legal. -/
theorem legalWordsAreExactlyTheDecodableOnes : Obligations.LegalWordsAreExactlyTheDecodableOnes := by
  refine fun w => ⟨?_, decodeFields_of_wf⟩
  rintro ⟨i, h⟩
  rw [← encode_eq_of_fields (fields_of_decodeFields h)]
  exact encode_wf i

/-- Settles O4. -/
theorem wordsOfTheOpcodeMapDecode : Obligations.WordsOfTheOpcodeMapDecode :=
  ⟨rfl, rfl, rfl, rfl, rfl, rfl, rfl, rfl⟩

/-- Settles O2. -/
theorem decodedWordIsTheEncodingOfItsCommand : Obligations.DecodedWordIsTheEncodingOfItsCommand :=
  fun _ _ h => encode_eq_of_fields (fields_of_decodeFields h)

end Sys2Proof
end

section
/-!
SUPPORT. One command word, legal or not: what it responds, and what its step leaves of the port and of the
parameters (spec/30_encoding.md R94 to R97, R99).
-/

namespace Sys2Proof.Machine

/-! ## An illegal word -/

theorem runWord_of_wf_false {w : Word} (h : (Fields.ofWord w).wf = false) (s : State) :
    runWord w s = illegalCommand w s :=
  runWord_of_illegal (fun i hi => by
    simp [(legalWordsAreExactlyTheDecodableOnes w).1 ⟨i, hi⟩] at h) s

/-- The five value reads are the opcodes 0x21 to 0x25 (R93, R95). -/
theorem readOpcode_iff (op : Byte) : readOpcode op = true ↔ 0x21 ≤ op.toNat ∧ op.toNat ≤ 0x25 := by
  simp [readOpcode, ← BitVec.toNat_inj]
  omega

/-- Settles O7. -/
theorem illegalWordRecordsCodeFive : Obligations.IllegalWordRecordsCodeFive := by
  intro s w rest hin hw u
  rw [step_of_command hin, runWord_of_wf_false hw, illegalCommand_eq]
  simp only [readOpcode_iff]
  rfl

/-! ## The response -/

/-- An effect responds nothing: the response is the command's own. -/
theorem Effect.responses_eq {i : Instr} {s u : State} (he : Effect s i u) :
    u.responses = s.responses := by
  cases he <;> rfl

theorem Effect.input_eq {i : Instr} {s u : State} (he : Effect s i u) : u.input = s.input := by
  cases he <;> rfl

theorem Effect.cfg_eq {i : Instr} {s u : State} (he : Effect s i u) : u.cfg = s.cfg := by
  cases he <;> rfl

theorem Instr.responds_iff (i : Instr) : Instr.responds i = true ↔
    ∃ a, i = .rdlen a ∨ i = .rdp a ∨ i = .rds a ∨ i = .rdd a ∨ i = .rdout a := by
  cases i <;> simp [Instr.responds]

theorem Instr.responds_eq_false_iff (i : Instr) : Instr.responds i = false ↔
    ∀ a, i ≠ .rdlen a ∧ i ≠ .rdp a ∧ i ≠ .rds a ∧ i ≠ .rdd a ∧ i ≠ .rdout a := by
  simp [← Bool.not_eq_true, Instr.responds_iff]

/-- Every command responds one word (R97). -/
theorem exec_responds_once (i : Instr) (s : State) : ∃ t r, exec i s = .next t ∧
    t.responses = s.responses ++ [r] ∧ t.input = s.input ∧ t.cfg = s.cfg := by
  have h := exec_ending i s
  generalize exec i s = res at h
  cases h with
  | changed he _ =>
    exact ⟨_, _, rfl, congrArg (· ++ _) he.responses_eq, he.input_eq, he.cfg_eq⟩
  | _ => exact ⟨_, _, rfl, rfl, rfl, rfl⟩

/-- Settles O8: a legal word runs its command, any other word is an illegal command. -/
theorem everyCommandWordGetsOneResponse : Obligations.EveryCommandWordGetsOneResponse := by
  intro s w rest hin
  rw [step_of_command hin]
  by_cases hw : ∃ i, decode w = .ok i
  · obtain ⟨i, hi⟩ := hw
    rw [runWord_of_decode hi]
    exact exec_responds_once i _
  · rw [runWord_of_illegal (not_exists.1 hw), illegalCommand_eq]
    exact ⟨_, _, rfl, rfl, rfl, rfl⟩

/-- A command that is no value read responds the `STATUS` of the state it leaves (R97). -/
theorem exec_responds_status {i : Instr} (hi : Instr.responds i = false) (s : State) :
    ∃ t, exec i s = .next t ∧ t.responses = s.responses ++ [t.status] := by
  have h := exec_ending i s
  generalize exec i s = res at h
  cases h with
  | changed he _ => exact ⟨_, rfl, congrArg (· ++ _) he.responses_eq⟩
  | failed | dropped => exact ⟨_, rfl, rfl⟩
  | readFailed _ _ h | read _ h => rw [hi] at h; cases h

/-- A value read leaves the error record as it was, or responds 0 (R97). -/
theorem exec_read_responds {i : Instr} (hi : Instr.responds i = true) (s : State) :
    ∃ t, exec i s = .next t ∧ (t.err = s.err ∨ t.responses = s.responses ++ [0]) := by
  have h := exec_ending i s
  generalize exec i s = res at h
  cases h with
  | changed _ h | failed _ _ h => rw [hi] at h; cases h
  | dropped _ _ h => rcases h with rfl | rfl <;> cases hi
  | readFailed => exact ⟨_, rfl, .inr rfl⟩
  | read => exact ⟨_, rfl, .inl rfl⟩

/-- Settles O10. -/
theorem nonReadsRespondStatusAndFailingReadsRespondZero :
    Obligations.NonReadsRespondStatusAndFailingReadsRespondZero := by
  intro i s
  simp only [← Instr.responds_eq_false_iff, ← Instr.responds_iff]
  cases hi : Instr.responds i with
  | false =>
    obtain ⟨t, ht, hr⟩ := exec_responds_status hi s
    exact ⟨t, ht, fun _ => hr, (nomatch ·)⟩
  | true =>
    obtain ⟨t, ht, hr⟩ := exec_read_responds hi s
    exact ⟨t, ht, (nomatch ·), fun _ hs he => hr.resolve_left (by simp [hs, he])⟩

/-! ## The word offered, and READOUT -/

/-- Settles O6: a word below 2^32 is its own 32 bits. -/
theorem offeredTableWordIsTheNextCommand : Obligations.OfferedTableWordIsTheNextCommand := by
  intro s w i _ hi
  have hd : decode (tableWord 32 w) = .ok i := by
    simp only [decodeTableWord] at hi
    split_ifs at hi
    split at hi
    · cases hi; assumption
    · cases hi
  rw [State.withFetchWord, step_of_command (State.offer_input s _), runWord_of_decode hd]
  rfl

theorem exec_rdout_inside {s : State} {a : Half} (h : a.toNat < s.olen.toNat) :
    exec (.rdout a) s = .next (s.answering ((s.out.read a.toNat).setWidth 32)) := by
  show execRdout a s = _
  rw [execRdout, if_neg (not_le.2 h), acceptRead_eq]

/-- A run of RDOUT inside the string responds its bytes and changes nothing else (44 R205). -/
theorem runCommands_rdout (is : List Nat) {s : State} (h : ∀ i ∈ is, i < s.olen.toNat) :
    runCommands (is.map fun i => .rdout (BitVec.ofNat 16 i)) s = .next { s with
      responses := s.responses ++ is.map fun i => (s.out.read i).setWidth 32 } := by
  induction is generalizing s with
  | nil => simp
  | cons i is ih =>
    have hi : i < s.olen.toNat := h i List.mem_cons_self
    have hnat : (BitVec.ofNat 16 i).toNat = i := by
      have := s.olen.isLt
      rw [BitVec.toNat_ofNat]
      omega
    rw [List.map_cons, runCommands_cons (exec_rdout_inside (by rwa [hnat])), hnat,
      ih (s := s.answering _) fun j hj => h j (List.mem_cons_of_mem i hj)]
    simp [State.answering]

/-- Settles O33. -/
theorem readoutRespondsTheWholeString : Obligations.ReadoutRespondsTheWholeString := fun s _ holen =>
  runCommands_rdout _ fun _ hi => by rw [holen]; exact List.mem_range.1 hi

end Sys2Proof.Machine
end

section
/-!
SUPPORT. The pseudo-instructions that load the inputs, and HASHCALL (spec/30_encoding.md R99,
spec/43_bcrypt_encoder.md R174 to R176).
-/

namespace Sys2Proof.Machine

/-! ## Runs that load inputs -/

/-- The second state differs at most in the tag and in the responses. -/
def SameButTag (s t : State) : Prop := ∃ ts rs, t = { s with tstate := ts, responses := rs }

/-- From `s` the run answers `s'`, whatever the tag and the responses are, and up to these. -/
def Leads (is : List Instr) (s s' : State) : Prop :=
  ∀ t, SameButTag s t → ∃ u, runCommands is t = .next u ∧ SameButTag s' u

theorem Leads.nil (s : State) : Leads [] s s := fun t h => ⟨t, rfl, h⟩

theorem Leads.append {is js : List Instr} {s s' s'' : State} (h : Leads is s s')
    (h' : Leads js s' s'') : Leads (is ++ js) s s'' := by
  intro t ht
  obtain ⟨u, hu, hsame⟩ := h t ht
  rw [runCommands_append hu]
  exact h' u hsame

/-- One command, by its effect. -/
theorem Leads.of_effect {i : Instr} {s s' : State}
    (h : ∀ t, SameButTag s t → ∃ u, Effect t i u ∧ SameButTag s' u) : Leads [i] s s' := by
  intro t ht
  obtain ⟨u, he, ts, rs, rfl⟩ := h t ht
  exact ⟨_, runCommands_cons he.exec_eq, _, _, rfl⟩

theorem leads_setcost (s : State) (b : Byte) : Leads [.setcost b] s { s with cost := b } :=
  .of_effect <| by rintro _ ⟨_, _, rfl⟩; exact ⟨_, .setcost b, _, _, rfl⟩

theorem leads_setslen (s : State) (b : Byte) : Leads [.setslen b] s { s with slen := b } :=
  .of_effect <| by rintro _ ⟨_, _, rfl⟩; exact ⟨_, .setslen b, _, _, rfl⟩

theorem leads_setplen {s : State} {a : Half} (h : a.toNat ≤ s.cfg.pwMax) :
    Leads [.setplen a] s { s with plen := a } :=
  .of_effect <| by rintro _ ⟨_, _, rfl⟩; exact ⟨_, .setplen a h, _, _, rfl⟩

theorem leads_ldsalt {s : State} {a : Half} (b : Byte) (h : a.toNat < 16) :
    Leads [.ldsalt a b] s { s with salt := s.salt.write a.toNat b } :=
  .of_effect <| by rintro _ ⟨_, _, rfl⟩; exact ⟨_, .ldsalt a b h, _, _, rfl⟩

theorem leads_ldpw {s : State} {a : Half} (b : Byte) (h : a.toNat < s.cfg.pwMax) :
    Leads [.ldpw a b] s { s with pw := s.pw.write a.toNat b } :=
  .of_effect <| by rintro _ ⟨_, _, rfl⟩; exact ⟨_, .ldpw a b h, _, _, rfl⟩

/-- Byte loads `k` of consecutive indices below `cap` write the bytes of the list to their space;
`put m` is the state with `m` as this space. -/
theorem leads_indexed {k : Half → Byte → Instr} {cap : Nat} {put : Memory → State}
    (hcap : cap ≤ 65536)
    (hk : ∀ (m : Memory) (a : Half) (b : Byte), a.toNat < cap →
      Leads [k a b] (put m) (put (m.write a.toNat b)))
    (bs : List Byte) {i : Nat} (m : Memory) (hi : i + bs.length ≤ cap) :
    Leads (indexed k i bs) (put m) (put (m.writeN i bs)) := by
  induction bs generalizing i m with
  | nil => exact .nil _
  | cons b bs ih =>
    rw [List.length_cons] at hi
    have hnat : (BitVec.ofNat 16 i).toNat = i := by
      rw [BitVec.toNat_ofNat]
      omega
    have h := hk m (BitVec.ofNat 16 i) b (by omega)
    rw [hnat] at h
    exact h.append (ih _ (by omega))

theorem leads_loadSalt (s : State) {bs : List Byte} (h : bs.length ≤ 16) : Leads (loadSalt bs) s
    { s with slen := BitVec.ofNat 8 bs.length, salt := s.salt.writeN 0 bs } :=
  (leads_setslen s _).append <|
    leads_indexed (put := fun m => { s with slen := BitVec.ofNat 8 bs.length, salt := m }) (cap := 16)
      (by decide) (fun _ _ b ha => leads_ldsalt b ha) bs s.salt (by omega)

theorem leads_loadPw (s : State) (hc : s.cfg.Wf) {bs : List Byte} (h : bs.length ≤ s.cfg.pwMax) :
    Leads (loadPw bs) s
      { s with plen := BitVec.ofNat 16 bs.length, pw := s.pw.writeN 0 bs } :=
  (leads_setplen (by rw [BitVec.toNat_ofNat]; exact (Nat.mod_le _ _).trans h)).append <|
    leads_indexed (put := fun m => { s with plen := BitVec.ofNat 16 bs.length, pw := m })
      (hc.pwMax_le.trans (by decide)) (fun _ _ b ha => leads_ldpw b ha) bs s.pw (by omega)

/-- The state with the arguments of a HASHCALL in its input registers. -/
def State.withArgs (s : State) (cost : Byte) (salt pw : List Byte) : State :=
  { s with
    cost := cost
    slen := BitVec.ofNat 8 salt.length
    salt := s.salt.writeN 0 salt
    plen := BitVec.ofNat 16 pw.length
    pw := s.pw.writeN 0 pw }

theorem leads_loadArgs {s : State} (hc : s.cfg.Wf) (cost : Byte) {salt pw : List Byte}
    (hsalt : salt.length ≤ 16) (hpw : pw.length ≤ s.cfg.pwMax) :
    Leads (loadArgs cost salt pw) s (s.withArgs cost salt pw) := by
  have hsaltRun := leads_loadSalt { s with cost := cost } hsalt
  have hpwRun := leads_loadPw { s with
    cost := cost, slen := BitVec.ofNat 8 salt.length, salt := s.salt.writeN 0 salt } hc hpw
  exact (leads_setcost s cost).append (hsaltRun.append hpwRun)

/-! ## What HASH leaves -/

/-- Reencrypt and Format leave the encrypted `MAGIC` in `D` and the whole text in `OUT` (43 R170,
R174). -/
theorem encodeResult_spec {s : State} (hc : s.cfg.Wf) (hd : s.d.wf) (ho : s.out.wf) :
    s.encodeResult.olen.toNat = s.cfg.outLen ∧
    (∀ j : Fin 3, s.encodeResult.d.blockAt j = (encryptBlock64 s.tab)^[64] (magicBlock s.cfg j)) ∧
    s.encodeResult.out.readN 0 s.cfg.outLen =
      hashText s.cfg s.cost.toNat s.saltBytes s.encodeResult.d := by
  obtain ⟨-, -, hblocks, -, -⟩ := reencrypt_spec s.cfg s.tab hd
  have hlt := (Config.outLen_lt hc).2
  refine ⟨?_, hblocks, ?_⟩
  · rw [State.encodeResult_olen, BitVec.toNat_ofNat]
    omega
  · rw [State.encodeResult_out, State.encodeResult_d]
    have := length_hashText s.cfg hc s.cost.toNat (length_saltBytes s) (reencrypt s.cfg s.tab s.d).1
    conv_lhs => rw [← this]
    exact Memory.readN_writeN ho 0 _

/-- A HASH that completes: the tables stretched from the inputs, the encrypted `MAGIC`, the whole text; the
error record stays (43 R176). -/
theorem exec_hash_spec {s : State} (hv : s.InputsValid) (hc : s.cfg.Wf) (hd : s.d.wf) (ho : s.out.wf) :
    ∃ t, exec .hash s = .next t ∧ t.err = s.err ∧ t.errcode = s.errcode ∧ t.tstate = .final ∧
      t.olen.toNat = s.cfg.outLen ∧ t.tab = s.stretch (initTables s.cfg) ∧
      (∀ j : Fin 3, t.d.blockAt j = (encryptBlock64 t.tab)^[64] (magicBlock s.cfg j)) ∧
      t.out.readN 0 s.cfg.outLen = hashText s.cfg s.cost.toNat s.saltBytes t.d := by
  obtain ⟨holen, hblocks, hout⟩ := encodeResult_spec
    (s := { s with tab := s.stretch (initTables s.cfg), tstate := .final }) hc hd ho
  exact ⟨_, exec_hash_completes hv, rfl, rfl, rfl, holen, rfl, hblocks, hout⟩

section

variable {s : State} {cost : Byte} {salt pw : List Byte}

theorem withArgs_saltBytes (hs : s.salt.wf) (h : salt.length = 16) :
    (s.withArgs cost salt pw).saltBytes = salt := by
  have := Memory.readN_writeN hs 0 salt
  rwa [h] at this

theorem withArgs_plen (h : pw.length ≤ 65535) : (s.withArgs cost salt pw).plen.toNat = pw.length := by
  show (BitVec.ofNat 16 pw.length).toNat = _
  rw [BitVec.toNat_ofNat]
  omega

theorem withArgs_passwordBytes (hs : s.pw.wf) (h : pw.length ≤ 65535) :
    (s.withArgs cost salt pw).passwordBytes = pw := by
  rw [State.passwordBytes, withArgs_plen h]
  exact Memory.readN_writeN hs 0 pw

theorem withArgs_inputsValid (hmin : s.cfg.costMin ≤ cost.toNat) (hmax : cost.toNat ≤ s.cfg.costMax)
    (hsalt : salt.length = 16) (hpos : 1 ≤ pw.length) (hpw : pw.length ≤ 65535) :
    (s.withArgs cost salt pw).InputsValid where
  cost_ge := hmin
  cost_le := hmax
  slen_eq := by
    show (BitVec.ofNat 8 salt.length).toNat = 16
    rw [hsalt]
    rfl
  plen_pos := hpos.trans (withArgs_plen hpw).ge

end

/-- Settles O52: the loads leave the arguments in the input registers and nothing else but the tag, and
HASH stretches, encrypts and formats what it finds there. -/
theorem hashcallHashesItsArguments : Obligations.HashcallHashesItsArguments := by
  intro s cost salt pw hinv hmin hmax hsalt hpos hpw
  have hpw' : pw.length ≤ 65535 := hpw.trans hinv.config.pwMax_le
  obtain ⟨u, hu, ts, rs, rfl⟩ :=
    leads_loadArgs hinv.config cost hsalt.le hpw s ⟨_, _, rfl⟩
  have hvalid := withArgs_inputsValid hmin hmax hsalt hpos hpw'
  obtain ⟨t, ht, herr, hcode, htag, holen, htab, hblocks, hout⟩ := exec_hash_spec
    (s := { s.withArgs cost salt pw with tstate := ts, responses := rs })
    { hvalid with } hinv.config hinv.spaces.d_wf hinv.spaces.out_wf
  have hsaltBytes := withArgs_saltBytes (cost := cost) (pw := pw) hinv.spaces.salt_wf hsalt
  have hstretch : (s.withArgs cost salt pw).stretch (initTables s.cfg) =
      generateKeys (initTables s.cfg) pw pw.length salt cost.toNat := by
    rw [State.stretch, withArgs_passwordBytes hinv.spaces.pw_wf hpw', withArgs_plen hpw', hsaltBytes]
    rfl
  refine ⟨t, ?_, herr, hcode, htag, holen, htab.trans hstretch, hblocks, hout.trans ?_⟩
  · rw [hashCall, runCommands_append hu, runCommands_cons ht, runCommands_nil]
  · exact congrArg (hashText s.cfg cost.toNat · t.d) hsaltBytes

end Sys2Proof.Machine
end

section
/-!
SUPPORT. BitPacking in both directions (spec/40_bitpacking.md R120, R121, R123), for every number of bytes:
each conversion takes one more byte on the right, so that both round trips go byte by byte.
-/

namespace Sys2Proof.Machine

/-! ## One more byte on the right -/

theorem bytesToNat_concat (s : List Byte) (b : Byte) :
    bytesToNat (s ++ [b]) = bytesToNat s * 256 + b.toNat := by
  simp [bytesToNat]

theorem ofNat_bytesToNat_concat (n : Nat) (s : List Byte) (b : Byte) :
    BitVec.ofNat (n + 8) (bytesToNat (s ++ [b])) = BitVec.ofNat n (bytesToNat s) ++ b := by
  refine BitVec.eq_of_toNat_eq ?_
  have hlow : (bytesToNat s * 256 + b.toNat) % 256 = b.toNat := by omega
  have hhigh : (bytesToNat s * 256 + b.toNat) / 256 = bytesToNat s := by omega
  rw [toNat_append_byte, BitVec.toNat_ofNat, BitVec.toNat_ofNat, bytesToNat_concat,
    Nat.add_comm n, Nat.pow_add, Nat.mod_mul, show 2 ^ 8 = 256 from rfl, hlow, hhigh]
  omega

/-- Byte `k < n` stands in `x`, at the place it has there; byte `n` is `b`. -/
theorem uintToBytes_append_byte {n : Nat} (x : BitVec (8 * n)) (b : Byte) :
    uintToBytes (x ++ b) = uintToBytes x ++ [b] := by
  have hsize : (8 * n + 8) / 8 = n + 1 := by omega
  rw [uintToBytes, uintToBytes, hsize, Nat.mul_div_cancel_left n (by decide), List.range_succ,
    List.map_append]
  congr 1
  · refine List.map_congr_left fun k hk => ?_
    have hk := List.mem_range.1 hk
    rw [BitVec.extractLsb'_append_eq_of_le (by omega)]
    congr 1
    omega
  · simp [BitVec.extractLsb'_append_eq_of_add_le]

/-! ## The round trips, for any number of bytes -/

theorem ofNat_bytesToNat_uintToBytes (n : Nat) (v : BitVec (8 * n)) :
    BitVec.ofNat (8 * n) (bytesToNat (uintToBytes v)) = v := by
  induction n with
  | zero => exact Subsingleton.elim (α := BitVec 0) _ _
  | succ n ih =>
    obtain ⟨x, b, rfl⟩ : ∃ (x : BitVec (8 * n)) (b : Byte), v = x ++ b :=
      ⟨_, _, BitVec.extractLsb'_append_extractLsb'.symm⟩
    calc BitVec.ofNat (8 * n + 8) (bytesToNat (uintToBytes (x ++ b)))
        = BitVec.ofNat (8 * n) (bytesToNat (uintToBytes x)) ++ b := by
          rw [uintToBytes_append_byte, ofNat_bytesToNat_concat]
      _ = x ++ b := by rw [ih]

theorem uintToBytes_ofNat_bytesToNat (n : Nat) (s : List Byte) (h : s.length = n) :
    uintToBytes (BitVec.ofNat (8 * n) (bytesToNat s)) = s := by
  subst h
  induction s using List.reverseRecOn with
  | nil => rfl
  | append_singleton s b ih =>
    rw [List.length_append, List.length_singleton, Nat.mul_succ, ofNat_bytesToNat_concat,
      uintToBytes_append_byte, ih]

/-- Settles O35: a word is 4 bytes and a block 8. -/
theorem bytesAndIntegersRoundTrip : Obligations.BytesAndIntegersRoundTrip :=
  ⟨ofNat_bytesToNat_uintToBytes 4, ofNat_bytesToNat_uintToBytes 8,
    uintToBytes_ofNat_bytesToNat 4, uintToBytes_ofNat_bytesToNat 8⟩

end Sys2Proof.Machine
end

section
/-!
SUPPORT. The cipher and its two commands (spec/41_blowfish_cipher.md R130 to R138): F on the four quarters of
its argument, the block function from its rounds, and what ENCBLK and ENCBUF do to the data buffer.
-/

namespace Sys2Proof.Machine

/-! ## The round function -/

theorem extract_append_byte_last {n : Nat} (x : BitVec n) (b : Byte) :
    (x ++ b).extractLsb' 0 8 = b := by
  simp [BitVec.extractLsb'_append_eq_of_add_le]

theorem extract_append_byte_init {n : Nat} (x : BitVec n) (b : Byte) (lo : Nat) :
    (x ++ b).extractLsb' (lo + 8) 8 = x.extractLsb' lo 8 := by
  rw [BitVec.extractLsb'_append_eq_of_le (by omega), Nat.add_sub_cancel]

theorem Tables.sbox_eq_word (t : Tables) (b : Fin 4) (q : Byte) :
    t.sbox b q = t.word (18 + 256 * b + q.toNat) :=
  (t.word_s b q.toFin).symm

/-- `F` reads box `b` at quarter `b` of its argument, most significant quarter first (R130). -/
theorem F_quarters (t : Tables) (q0 q1 q2 q3 : Byte) :
    F t (q0 ++ q1 ++ q2 ++ q3 : BitVec (8 + 8 + 8 + 8)) =
      ((t.sbox 0 q0 + t.sbox 1 q1) ^^^ t.sbox 2 q2) + t.sbox 3 q3 := by
  simp only [F, extract_append_byte_last, extract_append_byte_init, BitVec.extractLsb'_eq_self]

/-- Settles O36: the bit vector operations of `F` on its four S-box words, in naturals. -/
theorem roundFunctionValue : Obligations.RoundFunctionValue := by
  intro t q0 q1 q2 q3 s
  have hs : ∀ (b : Fin 4) (q : Byte), (t.sbox b q).toNat = s b q := fun b q =>
    congrArg BitVec.toNat (t.sbox_eq_word b q)
  rw [F_quarters, BitVec.toNat_add, BitVec.toNat_xor, BitVec.toNat_add, hs, hs, hs, hs]
  rfl

/-! ## The block function -/

/-- A fold over the indices in order ends at the last value of any sequence each index advances. -/
theorem foldl_finRange_eq_last {α : Type} {n : Nat} (f : α → Fin n → α) (a : Nat → α)
    (h : ∀ i : Fin n, f (a i) i = a (i + 1)) : (List.finRange n).foldl f (a 0) = a n := by
  induction n generalizing a with
  | zero => rfl
  | succ n ih =>
    have h0 : f (a 0) 0 = a 1 := h 0
    rw [List.finRange_succ, List.foldl_cons, List.foldl_map, h0]
    exact ih (fun x i => f x i.succ) (fun k => a (k + 1)) fun i => h i.succ

theorem feistelRound_eq (t : Tables) (l r : Word) (i : Fin 16) : feistelRound t (l, r) i =
    (r ^^^ F t (l ^^^ t.word i), F t (l ^^^ t.word i)) := by
  rw [show t.word i = t.p.get (i.castLE (by decide)) from t.word_p (i.castLE (by decide))]
  rfl

theorem encryptBlock_of_rounds (t : Tables) {x y : Word × Word}
    (h : (List.finRange 16).foldl (feistelRound t) x = y) :
    encryptBlock t x = (y.2 ^^^ t.word 16, y.1 ^^^ t.word 17) := by
  rw [show t.word 16 = t.p.get 16 from t.word_p 16, show t.word 17 = t.p.get 17 from t.word_p 17, ← h]
  rfl

/-- Settles O37: round `i` takes `(L i, R i)` to the next pair. -/
theorem encryptBlockClosedForm : Obligations.EncryptBlockClosedForm := by
  intro t L R h
  refine encryptBlock_of_rounds t (foldl_finRange_eq_last (feistelRound t) (fun i => (L i, R i)) ?_)
  intro i
  obtain ⟨hL, hR⟩ := h i i.isLt
  rw [feistelRound_eq, ← hR, hL, ← hR]

/-! ## ENCBLK and ENCBUF -/

theorem exec_encblk_uninit {s : State} (h : s.tstate = .uninit) (a : Half) : exec (.encblk a) s =
    .next (s.errored ErrKind.tablesState.code).answeringStatus := by
  show execEncblk a s = _
  rw [execEncblk, if_pos h, reject_eq]

theorem exec_encblk_outside {s : State} {a : Half} (h : s.tstate ≠ .uninit)
    (ha : s.dlen.toNat < 8 * a.toNat + 8) : exec (.encblk a) s =
    .next (s.errored ErrKind.badIndex.code).answeringStatus := by
  have hout : ¬ s.blockInside a = true := by simpa [State.blockInside] using ha
  show execEncblk a s = _
  rw [execEncblk, if_neg h, if_neg hout, reject_eq]

theorem exec_encbuf_uninit {s : State} (h : s.tstate = .uninit) : exec .encbuf s =
    .next (s.errored ErrKind.tablesState.code).answeringStatus := by
  show execEncbuf s = _
  rw [execEncbuf, if_pos h, reject_eq]

/-- Settles O38: the completing command is EncD on block `a`. -/
theorem encblkEncryptsOneBlock : Obligations.EncblkEncryptsOneBlock := fun a s hd =>
  ⟨fun h => exec_encblk_uninit h a, exec_encblk_outside, fun h ha =>
    ⟨encD s.tab s.d a.toNat, (Effect.encblk a h ha).exec_eq, encD_blockAt_self s.tab hd a.toNat,
      fun _ => encD_read_outside s.tab s.d⟩⟩

/-- Settles O39: the completing command is EncryptBuffer, and its new length fits `DLEN`. -/
theorem encbufEncryptsThePaddedBuffer : Obligations.EncbufEncryptsThePaddedBuffer := by
  intro s hd hlen nb
  refine ⟨exec_encbuf_uninit, fun h => ?_⟩
  obtain ⟨hn, -, hblocks, hrest, -⟩ := encryptBuffer_spec s.tab hd s.dlen.toNat
  refine ⟨_, _, (Effect.encbuf h).exec_eq, ?_, hblocks, hrest⟩
  rw [BitVec.toNat_ofNat, hn]
  exact Nat.mod_eq_of_lt (by omega)

end Sys2Proof.Machine
end

section
/-!
SUPPORT. The words the key schedule starts from, and one pass (spec/42_key_schedule.md R150 to R156): a key
word reads its bytes through the wrapped offset alone, and the two fill loops are one chain of 521
encryptions that the counter `k` drives.
-/

namespace Sys2Proof.Machine

/-! ## Key words -/

/-- Byte `j` of the endless repetition of the key (R151). -/
def keyByte (key : List Byte) (klen j : Nat) : Byte := key.getD (j % klen) 0

theorem keyWord_eq (key : List Byte) (klen n : Nat) : keyWord key klen n =
    (keyByte key klen (4 * n) ++ keyByte key klen (4 * n + 1) ++ keyByte key klen (4 * n + 2) ++
      keyByte key klen (4 * n + 3) : BitVec (8 + 8 + 8 + 8)) :=
  bytesToWord_four _ _ _ _

theorem keyWord_congr {key key' : List Byte} {klen klen' n : Nat}
    (h : ∀ j < 4 * n + 4, keyByte key' klen' j = keyByte key klen j) :
    keyWord key' klen' n = keyWord key klen n := by
  rw [keyWord_eq, keyWord_eq, h _ (by omega), h _ (by omega), h _ (by omega), h _ (by omega)]

/-- Without a wrap the bytes are those of the key itself. -/
theorem keyByte_of_lt (key : List Byte) {klen j : Nat} (h : j < klen) :
    keyByte key klen j = key.getD j 0 := by
  rw [keyByte, Nat.mod_eq_of_lt h]

/-- A key written twice has the same endless repetition. -/
theorem keyByte_append_self {key : List Byte} (h : 1 ≤ key.length) (j : Nat) :
    keyByte (key ++ key) (2 * key.length) j = keyByte key key.length j := by
  have hlt : j % (2 * key.length) < 2 * key.length := Nat.mod_lt _ (by omega)
  have hmod : j % (2 * key.length) % key.length = j % key.length := Nat.mod_mul_left_mod j 2 _
  rw [keyByte, keyByte, ← hmod]
  rcases Nat.lt_or_ge (j % (2 * key.length)) key.length with hfirst | hsecond
  · rw [List.getD_append _ _ _ _ hfirst, Nat.mod_eq_of_lt hfirst]
  · rw [List.getD_append_right _ _ _ _ hsecond, Nat.mod_eq_sub_mod hsecond,
      Nat.mod_eq_of_lt (show j % (2 * key.length) - key.length < key.length by omega)]

/-- Settles O41: byte `k` of the concatenation is the one that stands last once the bytes right of it are
dropped. -/
theorem keyWordWrapsByteByByte : Obligations.KeyWordWrapsByteByByte := by
  intro key n k _
  rw [keyWord_eq]
  match k with
  | 0 => exact (extract_append_byte_init _ _ 16).trans <| (extract_append_byte_init _ _ 8).trans <|
      (extract_append_byte_init _ _ 0).trans BitVec.extractLsb'_eq_self
  | 1 => exact (extract_append_byte_init _ _ 8).trans <| (extract_append_byte_init _ _ 0).trans <|
      extract_append_byte_last _ _
  | 2 => exact (extract_append_byte_init _ _ 0).trans <| extract_append_byte_last _ _
  | 3 => exact extract_append_byte_last _ _

/-- Settles O42: the 18 words read the bytes 0 to 71 of the endless repetition of the key. -/
theorem keyWordsReadAtMost72Bytes : Obligations.KeyWordsReadAtMost72Bytes := by
  refine ⟨fun key key' n hlen hlen' htake => keyWord_congr fun j hj => ?_,
    fun key n hpos => keyWord_congr fun j _ => keyByte_append_self hpos j⟩
  have hj72 : j < 72 := by omega
  rw [keyByte_of_lt key' (by omega), keyByte_of_lt key (by omega), List.getD_eq_getElem?_getD,
    List.getD_eq_getElem?_getD, ← List.getElem?_take_of_lt hj72, htake, List.getElem?_take_of_lt hj72]

/-! ## One pass -/

/-- The iteration of the two fill loops that encryption `k` of a pass belongs to: iteration `k` of the P
fill, then the boxes with 128 iterations each (R154, R155). -/
def passStep (salt16 : List Byte) (x : Pass) : Pass :=
  if h : x.k < 9 then fillPStep salt16 x ⟨x.k, h⟩
  else fillSStep salt16 (Fin.ofNat 4 ((x.k - 9) / 128)) x (Fin.ofNat 128 (x.k - 9))

theorem fillPStep_eq_passStep (salt16 : List Byte) {x : Pass} {m : Fin 9} (h : x.k = m) :
    fillPStep salt16 x m = passStep salt16 x := by
  have hm : (⟨x.k, by omega⟩ : Fin 9) = m := Fin.ext h
  rw [passStep, dif_pos (by omega), hm]

theorem fillSStep_eq_passStep (salt16 : List Byte) {x : Pass} {b : Fin 4} {j : Fin 128}
    (h : x.k = 9 + 128 * b + j) : fillSStep salt16 b x j = passStep salt16 x := by
  have hb : Fin.ofNat 4 ((x.k - 9) / 128) = b := Fin.ext (by rw [Fin.val_ofNat]; omega)
  have hj : Fin.ofNat 128 (x.k - 9) = j := Fin.ext (by rw [Fin.val_ofNat]; omega)
  rw [passStep, dif_neg (by omega), hb, hj]

theorem passStep_advances (salt16 : List Byte) {x : Pass} (h : x.k < 521) :
    Advances salt16 x (passStep salt16 x) := by
  by_cases hp : x.k < 9
  · rw [passStep, dif_pos hp]
    exact fillPStep_advances salt16 _ rfl
  · rw [passStep, dif_neg hp]
    exact fillSStep_advances salt16 _ _ (by simp only [Fin.val_ofNat]; omega)

/-- The pass after `n` more encryptions. -/
def passAfter (salt16 : List Byte) (x : Pass) (n : Nat) : Pass := (passStep salt16)^[n] x

theorem passAfter_succ (salt16 : List Byte) (x : Pass) (n : Nat) :
    passAfter salt16 x (n + 1) = passStep salt16 (passAfter salt16 x n) :=
  Function.iterate_succ_apply' _ _ _

theorem passAfter_add (salt16 : List Byte) (x : Pass) (m n : Nat) :
    passAfter salt16 x (m + n) = passAfter salt16 (passAfter salt16 x m) n := by
  rw [Nat.add_comm]
  exact Function.iterate_add_apply _ _ _ _

theorem passAfter_k (salt16 : List Byte) {x : Pass} {n : Nat} (h : x.k + n ≤ 521) :
    (passAfter salt16 x n).k = x.k + n := by
  induction n with
  | zero => rfl
  | succ n ih =>
    have hk := ih (by omega)
    rw [passAfter_succ, (passStep_advances salt16 (by omega)).k, hk, Nat.add_assoc]

theorem fillP_eq_passAfter (salt16 : List Byte) {x : Pass} (h : x.k = 0) :
    fillP salt16 x = passAfter salt16 x 9 := by
  refine foldl_finRange_eq_last (fillPStep salt16) (passAfter salt16 x) fun m => ?_
  have hk := passAfter_k salt16 (x := x) (n := m) (by omega)
  rw [passAfter_succ, fillPStep_eq_passStep salt16 (by omega)]

theorem fillBox_eq_passAfter (salt16 : List Byte) {x : Pass} {b : Fin 4} (h : x.k = 9 + 128 * b) :
    fillBox salt16 x b = passAfter salt16 x 128 := by
  refine foldl_finRange_eq_last (fillSStep salt16 b) (passAfter salt16 x) fun j => ?_
  have hk := passAfter_k salt16 (x := x) (n := j) (by omega)
  rw [passAfter_succ, fillSStep_eq_passStep salt16 (by omega)]

/-- Each box starts where the one before left the counter (R153, R155). -/
theorem fillS_eq_passAfter (salt16 : List Byte) {x : Pass} (h : x.k = 9) :
    fillS salt16 x = passAfter salt16 x 512 := by
  refine foldl_finRange_eq_last (fillBox salt16) (fun b => passAfter salt16 x (128 * b)) fun b => ?_
  have hk := passAfter_k salt16 (x := x) (n := 128 * b) (by omega)
  rw [fillBox_eq_passAfter salt16 (by omega), Nat.mul_succ, passAfter_add]

/-- Where a pass starts: the tables after step 1, a running block of 0 (R152, R153). -/
def passStart (t : Tables) (key : List Byte) (klen : Nat) : Pass :=
  { tab := keyXor t key klen, blk := 0, k := 0 }

/-- Encryption `k` of a pass is the one whose counter is `k` (R153). -/
theorem passAfter_start_k (t : Tables) (key : List Byte) (klen : Nat) (salt16 : List Byte) {n : Nat}
    (h : n ≤ 521) : (passAfter salt16 (passStart t key klen) n).k = n := by
  have hstart : (passStart t key klen).k = 0 := rfl
  rw [passAfter_k salt16 (by omega), hstart, Nat.zero_add]

/-- A pass is the key xor and 521 encryptions (R156). -/
theorem expandPass_eq (t : Tables) (key : List Byte) (klen : Nat) (salt16 : List Byte) :
    expandPass t key klen salt16 = passAfter salt16 (passStart t key klen) 521 := by
  have hk : (passAfter salt16 (passStart t key klen) 9).k = 9 :=
    passAfter_start_k t key klen salt16 (by decide)
  rw [expandPass, ← passStart, fillP_eq_passAfter salt16 rfl, fillS_eq_passAfter salt16 hk,
    ← passAfter_add]

/-- Settles O43: `T k` and `B k` are the tables and the running block after `k` encryptions. -/
theorem expandKeyIs521ChainedEncryptions : Obligations.ExpandKeyIs521ChainedEncryptions := by
  intro t key salt16 hsalt
  refine ⟨fun k => (passAfter salt16 (passStart t key key.length) k).tab,
    fun k => (passAfter salt16 (passStart t key key.length) k).blk,
    keyXor_word t key key.length, rfl, fun k hk => ?_, ?_⟩
  · have hcount := passAfter_start_k t key key.length salt16 hk.le
    have hadvances : Advances salt16 (passAfter salt16 (passStart t key key.length) k)
        (passAfter salt16 (passStart t key key.length) (k + 1)) := by
      rw [passAfter_succ]
      exact passStep_advances salt16 (by omega)
    obtain ⟨hblk, -, hword⟩ := hadvances
    rw [hcount, ← hblk] at hword
    rw [Pass.nextBlock, hcount, saltHalf_eq salt16 hsalt (Nat.mod_lt k (by decide))] at hblk
    exact ⟨hblk, hword⟩
  · rw [expandKey, expandPass_eq]

end Sys2Proof.Machine
end

section
/-!
SUPPORT. INIT, XKEY and GENKEYS (spec/42_key_schedule.md R157 to R161): their checks in order, the stretching
loop as an iteration, and the schedule run pass by pass.
-/

namespace Sys2Proof.Machine

/-! ## The commands when a check fails -/

section

variable {s : State} {k : KeySource} {x : SaltSource}

theorem exec_xkey_uninit (h : s.tstate = .uninit) : exec (.xkey k x) s =
    .next (s.errored ErrKind.tablesState.code).answeringStatus := by
  show execXkey k x s = _
  rw [execXkey, if_pos h, reject_eq]

theorem exec_xkey_saltLength (h : s.tstate ≠ .uninit) (huses : k = .salt ∨ x = .real)
    (hslen : s.slen.toNat ≠ 16) : exec (.xkey k x) s =
    .next (s.errored ErrKind.invalidSaltLength.code).answeringStatus := by
  show execXkey k x s = _
  rw [execXkey, if_neg h, if_pos ⟨huses, hslen⟩, reject_eq]

theorem exec_xkey_emptyPassword (h : s.tstate ≠ .uninit)
    (hslen : k = .salt ∨ x = .real → s.slen.toNat = 16) (hkey : k = .password)
    (hplen : s.plen.toNat = 0) : exec (.xkey k x) s =
    .next (s.errored ErrKind.emptyPassword.code).answeringStatus := by
  show execXkey k x s = _
  rw [execXkey, if_neg h, if_neg fun e => e.2 (hslen e.1), if_pos ⟨hkey, hplen⟩, reject_eq]

theorem exec_genkeys_unseeded (h : s.tstate ≠ .seeded) : exec .genkeys s =
    .next (s.errored ErrKind.tablesState.code).answeringStatus := by
  show execGenkeys s = _
  rw [execGenkeys, if_pos h, reject_eq]

theorem exec_genkeys_invalid {e : ErrKind} (h : s.tstate = .seeded)
    (he : s.validate { cost := true, salt := true, pw := true } = some e) : exec .genkeys s =
    .next (s.errored e.code).answeringStatus := by
  show execGenkeys s = _
  rw [execGenkeys, if_neg (not_not.2 h), he]
  exact reject_eq e s

end

/-- The key XKEY hands to a pass has the length it hands with it (42 R159). -/
theorem State.length_keyBytes (s : State) (k : KeySource) : (s.keyBytes k).length = s.keyLen k := by
  cases k with
  | password => exact Memory.length_readN _ _ _
  | salt => exact length_saltBytes s

/-- Settles O40. -/
theorem initSeedsEveryTableWord : Obligations.InitSeedsEveryTableWord := fun s =>
  ⟨initTables s.cfg, Effect.init.exec_eq, initTables_word s.cfg⟩

/-- Settles O44: one lemma for each failing check, and the completing command runs one pass. -/
theorem xkeyRunsOnePass : Obligations.XkeyRunsOnePass := by
  intro k x s usesSalt i
  refine ⟨exec_xkey_uninit, exec_xkey_saltLength, exec_xkey_emptyPassword, ?_⟩
  intro h hslen hplen key salt16
  have hkey : key = s.keyBytes k := by cases k <;> rfl
  have hsalt : salt16 = s.mixSalt x := by cases x <;> rfl
  rw [hkey, hsalt, s.length_keyBytes]
  exact exec_xkey_completes k x h hslen fun e => Nat.one_le_iff_ne_zero.1 (hplen e)

/-! ## The stretching loop -/

/-- The tables after `n` rounds of the stretching loop from the tables `t` (R157). -/
def State.stretchRounds (s : State) (n : Nat) (t : Tables) : Tables :=
  repeatN (stretchStep s.passwordBytes s.plen.toNat s.saltBytes) n t

theorem State.stretch_eq_stretchRounds (s : State) (t : Tables) : s.stretch t =
    s.stretchRounds (2 ^ s.cost.toNat) (expandKey t s.passwordBytes s.plen.toNat zero16) := rfl

/-- Settles O45: `T n` is the tables after the first pass and `n` rounds of the loop. -/
theorem genkeysStretchesTheSeededTables : Obligations.GenkeysStretchesTheSeededTables := by
  refine fun s => ⟨exec_genkeys_unseeded, fun _ => exec_genkeys_invalid, ?_⟩
  intro h hv pw salt
  refine ⟨fun n => s.stretchRounds n (expandKey s.tab pw s.plen.toNat zero16), rfl,
    fun n _ => repeatN_succ' _ n _, ?_⟩
  exact exec_genkeys_completes h hv

/-! ## The schedule run pass by pass -/

/-- The state a run of the key schedule leads to: the tables and their tag, and the responses. -/
def State.withTables (s : State) (t : Tables) (ts : TState) (rs : List Word) : State :=
  { s with tab := t, tstate := ts, responses := rs }

theorem State.withTables_answers (s : State) (t t' : Tables) (ts ts' : TState) (rs : List Word) :
    ∃ rs', ({ s.withTables t ts rs with tab := t', tstate := ts' } : State).answeringStatus =
      s.withTables t' ts' rs' := ⟨_, rfl⟩

theorem sameKeys_withTables (s : State) (t : Tables) (ts : TState) (rs : List Word) :
    SameKeys s (s.withTables t ts rs) := ⟨rfl, rfl, fun _ _ => rfl⟩

theorem exec_init_withTables (s : State) : ∃ rs, exec .init s =
    .next (s.withTables (initTables s.cfg) .seeded rs) := ⟨_, Effect.init.exec_eq⟩

section

variable {s : State} (hv : s.InputsValid)
include hv

theorem exec_xkey_withTables (k : KeySource) (x : SaltSource) (t : Tables) {ts : TState}
    (hts : ts ≠ .uninit) (rs : List Word) : ∃ rs', exec (.xkey k x) (s.withTables t ts rs) =
      .next (s.withTables (expandKey t (s.keyBytes k) (s.keyLen k) (s.mixSalt x)) .mixed rs') := by
  obtain ⟨rs', hanswers⟩ := s.withTables_answers t
    (expandKey t (s.keyBytes k) (s.keyLen k) (s.mixSalt x)) ts .mixed rs
  refine ⟨rs', ?_⟩
  rw [← hanswers, ← (sameKeys_withTables s t ts rs).expandKey_eq]
  exact exec_xkey_completes k x (s := s.withTables t ts rs) hts (fun _ => hv.slen_eq)
    fun _ => Nat.one_le_iff_ne_zero.1 hv.plen_pos

theorem exec_genkeys_withTables (t : Tables) (rs : List Word) : ∃ rs',
    exec .genkeys (s.withTables t .seeded rs) = .next (s.withTables (s.stretch t) .final rs') := by
  obtain ⟨rs', hanswers⟩ := s.withTables_answers t (s.stretch t) .seeded .final rs
  refine ⟨rs', ?_⟩
  rw [← hanswers, ← (sameKeys_withTables s t .seeded rs).stretch_eq rfl]
  exact exec_genkeys_completes (s := s.withTables t .seeded rs) rfl { hv with }

/-- XKEY 2 is pass A and XKEY 3 is pass B (R157, R159). -/
theorem runCommands_stagedLoop (n : Nat) (t : Tables) (rs : List Word) : ∃ rs',
    runCommands (stagedLoop n) (s.withTables t .mixed rs) =
      .next (s.withTables (s.stretchRounds n t) .mixed rs') := by
  induction n generalizing t rs with
  | zero => exact ⟨rs, rfl⟩
  | succ n ih =>
    obtain ⟨rsA, hA⟩ := exec_xkey_withTables hv .password .real t (ts := .mixed) (by decide) rs
    obtain ⟨rsB, hB⟩ := exec_xkey_withTables hv .salt .real _ (ts := .mixed) (by decide) rsA
    rw [stagedLoop, runCommands_cons hA, runCommands_cons hB]
    exact ih _ rsB

/-- The staged schedule leaves the tables that GENKEYS makes of the seeded ones (R159). -/
theorem runCommands_stagedSchedule : ∃ rs, runCommands (stagedSchedule s.cost.toNat) s =
    .next (s.withTables (s.stretch (initTables s.cfg)) .mixed rs) := by
  obtain ⟨rs₀, hinit⟩ := exec_init_withTables s
  obtain ⟨rs₁, hfirst⟩ := exec_xkey_withTables hv .password .zero _ (ts := .seeded) (by decide) rs₀
  rw [stagedSchedule, runCommands_cons hinit, runCommands_cons hfirst, s.stretch_eq_stretchRounds]
  exact runCommands_stagedLoop hv _ _ rs₁

theorem runCommands_init_genkeys : ∃ rs, runCommands [.init, .genkeys] s =
    .next (s.withTables (s.stretch (initTables s.cfg)) .final rs) := by
  obtain ⟨rs₀, hinit⟩ := exec_init_withTables s
  obtain ⟨rs, hgenkeys⟩ := exec_genkeys_withTables hv _ rs₀
  exact ⟨rs, by rw [runCommands_cons hinit, runCommands_cons hgenkeys, runCommands_nil]⟩

end

/-- Settles O46: both runs change the tables, the tag and the responses alone, and the passes of the staged
one are those GENKEYS makes. -/
theorem stagedPassesEqualGenkeys : Obligations.StagedPassesEqualGenkeys := by
  intro s hv
  obtain ⟨rs, hgenkeys⟩ := runCommands_init_genkeys hv
  obtain ⟨rs', hstaged⟩ := runCommands_stagedSchedule hv
  exact ⟨_, _, hgenkeys, hstaged, rfl, rfl⟩

end Sys2Proof.Machine
end

section
/-!
SUPPORT. The text encoding in the view of the document (spec/43_bcrypt_encoder.md R171): the input as one
sequence of bits, with zero bits past its end, cut into groups of six.
-/

namespace Sys2Proof.Machine

/-- Group `g` of six bits, the first bit most significant (R171). -/
def sextet (s : List Byte) (g : Nat) : BitVec 6 :=
  BitVec.ofFnLE fun i : Fin 6 => bitAt s (6 * g + (5 - i))

theorem testBit_sextet (s : List Byte) (g : Nat) {i : Nat} (h : i < 6) :
    (sextet s g).toNat.testBit (5 - i) = bitAt s (6 * g + i) := by
  rw [BitVec.testBit_toNat, sextet, BitVec.getLsbD_ofFnLE, dif_pos (by omega)]
  congr 1
  simp only
  omega

theorem sextet_congr {s s' : List Byte} {g g' : Nat}
    (h : ∀ i < 6, bitAt s (6 * g + i) = bitAt s' (6 * g' + i)) : sextet s g = sextet s' g' := by
  unfold sextet
  congr 1
  funext i
  exact h _ (by omega)

/-- Zero bytes past the end are the zero bits the document appends. -/
theorem sextet_append_zeros (s : List Byte) (n g : Nat) :
    sextet (s ++ List.replicate n 0) g = sextet s g := by
  refine sextet_congr fun i _ => ?_
  rw [bitAt, bitAt]
  congr 1
  simp only [List.getD_eq_getElem?_getD, List.getElem?_append, List.getElem?_replicate]
  split_ifs with h <;> simp [h]

/-- Three bytes are four whole groups. -/
theorem sextet_cons_three (b0 b1 b2 : Byte) (rest : List Byte) (g : Nat) :
    sextet (b0 :: b1 :: b2 :: rest) (g + 4) = sextet rest g := by
  refine sextet_congr fun i _ => ?_
  rw [show 6 * (g + 4) + i = 6 * g + i + 8 * 3 by omega, bitAt, bitAt,
    Nat.add_mul_div_left _ _ (by decide), Nat.add_mul_mod_self_left]
  rfl

section

variable (b0 b1 b2 : Byte) (rest : List Byte)

theorem sextet_zero : sextet (b0 :: b1 :: b2 :: rest) 0 = b0.extractLsb' 2 6 := by
  ext i hi
  interval_cases i <;> simp [sextet, bitAt]

theorem sextet_one : sextet (b0 :: b1 :: b2 :: rest) 1 =
    b0.extractLsb' 0 2 ++ b1.extractLsb' 4 4 := by
  refine BitVec.eq_of_getLsbD_eq fun i hi => .trans ?_ BitVec.getLsbD_append.symm
  interval_cases i <;> simp [sextet, bitAt]

theorem sextet_two : sextet (b0 :: b1 :: b2 :: rest) 2 =
    b1.extractLsb' 0 4 ++ b2.extractLsb' 6 2 := by
  refine BitVec.eq_of_getLsbD_eq fun i hi => .trans ?_ BitVec.getLsbD_append.symm
  interval_cases i <;> simp [sextet, bitAt]

theorem sextet_three : sextet (b0 :: b1 :: b2 :: rest) 3 = b2.extractLsb' 0 6 := by
  ext i hi
  interval_cases i <;> simp [sextet, bitAt]

theorem b64_cons_three (c : Config) : b64 c (b0 :: b1 :: b2 :: rest) =
    (List.range 4).map (fun g => encodedChar c (sextet (b0 :: b1 :: b2 :: rest) g)) ++ b64 c rest := by
  simp only [List.range, List.range.loop, List.map, sextet_zero, sextet_one, sextet_two, sextet_three]
  rfl

end

/-- The character of each group, by the groups of three bytes; the last group is that of the bytes with
zero bytes appended. -/
theorem b64_eq_map_sextet (c : Config) (s : List Byte) :
    b64 c s = (List.range ((8 * s.length + 5) / 6)).map fun g => encodedChar c (sextet s g) := by
  induction s using b64.induct with
  | case1 => rfl
  | case2 b0 =>
    have hpad : b64 c [b0] = (b64 c [b0, 0, 0]).take 2 := rfl
    have hlen : (8 * [b0].length + 5) / 6 = 2 := by simp
    simp only [hpad, b64_cons_three, hlen, ← sextet_append_zeros [b0] 2]
    rfl
  | case3 b0 b1 =>
    have hpad : b64 c [b0, b1] = (b64 c [b0, b1, 0]).take 3 := rfl
    have hlen : (8 * [b0, b1].length + 5) / 6 = 3 := by simp
    simp only [hpad, b64_cons_three, hlen, ← sextet_append_zeros [b0, b1] 1]
    rfl
  | case4 b0 b1 b2 rest ih =>
    have hlen : (8 * (b0 :: b1 :: b2 :: rest).length + 5) / 6 = 4 + (8 * rest.length + 5) / 6 := by
      simp only [List.length_cons]
      omega
    rw [hlen, b64_cons_three, ih, List.range_add, List.map_append, List.map_map]
    congr 2
    funext g
    rw [Function.comp_apply, Nat.add_comm, sextet_cons_three]

/-- Settles O47: character `g` is that of group `g`, whose bits are those from `6g` on. -/
theorem textEncodingBitByBit : Obligations.TextEncodingBitByBit := by
  intro c s
  refine ⟨length_b64 c s, fun g hg => ⟨(sextet s g).toFin, ?_, fun _ => testBit_sextet s g⟩⟩
  rw [b64_eq_map_sextet, List.getElem?_map, List.getElem?_range hg]
  rfl

end Sys2Proof.Machine
end

section
/-!
SUPPORT. ENCODE and HASH (spec/43_bcrypt_encoder.md R170 to R176): their checks, what Reencrypt and Format
change, and HASH as a program and as a function of its arguments.
-/

namespace Sys2Proof.Machine

section

variable {s : State}

/-! ## The commands when a check fails -/

theorem exec_encode_invalid {k : ErrKind} (h : s.tstate = .final)
    (hk : s.validate { cost := true, salt := true, pw := false } = some k) : exec .encode s =
    .next (s.dropResult.errored k.code).answeringStatus := by
  show execEncode s = _
  rw [execEncode, if_neg (not_not.2 h), hk]
  exact reject_eq k _

theorem exec_hash_invalid {k : ErrKind}
    (hk : s.validate { cost := true, salt := true, pw := true } = some k) : exec .hash s =
    .next (s.dropResult.errored k.code).answeringStatus := by
  show execHash s = _
  rw [execHash, hk]
  exact reject_eq k _

/-- ENCODE does not look at the password (R175). -/
theorem State.validate_cost_salt_none (hmin : s.cfg.costMin ≤ s.cost.toNat)
    (hmax : s.cost.toNat ≤ s.cfg.costMax) (hslen : s.slen.toNat = 16) :
    s.validate { cost := true, salt := true, pw := false } = none := by
  simp [State.validate, s.costValid_iff.2 ⟨hmin, hmax⟩, hslen]

/-! ## What Reencrypt and Format change -/

theorem encodeResult_dlen_eq (hd : s.d.wf) : s.encodeResult.dlen = 24 := by
  rw [State.encodeResult_dlen, (reencrypt_spec s.cfg s.tab hd).1]
  rfl

theorem encodeResult_d_beyond (hd : s.d.wf) {i : Nat} (hi : 24 ≤ i) :
    s.encodeResult.d.read i = s.d.read i := by
  obtain ⟨-, -, -, hrest, -⟩ := reencrypt_spec s.cfg s.tab hd
  exact hrest i hi

theorem encodeResult_out_beyond (hc : s.cfg.Wf) {i : Nat} (hi : s.cfg.outLen ≤ i) :
    s.encodeResult.out.read i = s.out.read i := by
  rw [State.encodeResult_out]
  refine Memory.read_writeN_outside _ (.inr ?_)
  rwa [length_hashText s.cfg hc _ (length_saltBytes s), Nat.zero_add]

theorem toNat_encodeResult_olen (hc : s.cfg.Wf) : s.encodeResult.olen.toNat = s.cfg.outLen := by
  have := (Config.outLen_lt hc).2
  rw [State.encodeResult_olen, BitVec.toNat_ofNat]
  omega

end

/-- Settles O48: one lemma for each failing check; the command that completes is Reencrypt and Format. -/
theorem encodeFormatsTheHash : Obligations.EncodeFormatsTheHash := by
  intro s hc hd ho dropped
  refine ⟨exec_encode_stale, fun _ => exec_encode_invalid, fun h hmin hmax hslen => ?_⟩
  obtain ⟨holen, hblocks, hout⟩ := encodeResult_spec hc hd ho
  exact ⟨s.encodeResult.d, s.encodeResult.out, s.encodeResult.dlen, s.encodeResult.olen,
    exec_encode_completes h (State.validate_cost_salt_none hmin hmax hslen),
    congrArg BitVec.toNat (encodeResult_dlen_eq hd), holen, hblocks,
    fun _ => encodeResult_d_beyond hd, fun _ => encodeResult_out_beyond hc, hout⟩

/-- The state in which HASH formats: the finished tables of the inputs (R176). -/
def State.hashed (s : State) : State :=
  { s with tab := s.stretch (initTables s.cfg), tstate := .final }

theorem exec_hash_hashed {s : State} (h : s.InputsValid) :
    exec .hash s = .next s.hashed.encodeResult.answeringStatus := exec_hash_completes h

/-- Settles O49: HASH that completes is Reencrypt and Format on the finished tables of its inputs. -/
theorem hashCompletesOrRejects : Obligations.HashCompletesOrRejects := by
  intro s hc hd
  refine ⟨fun _ => exec_hash_invalid, fun hv => ?_⟩
  exact ⟨s.hashed.encodeResult.d, s.hashed.encodeResult.out, s.hashed.encodeResult.dlen,
    s.hashed.encodeResult.olen, exec_hash_hashed hv,
    congrArg BitVec.toNat (encodeResult_dlen_eq (s := s.hashed) hd),
    toNat_encodeResult_olen (s := s.hashed) hc, fun _ => encodeResult_d_beyond (s := s.hashed) hd,
    fun _ => encodeResult_out_beyond (s := s.hashed) hc⟩

/-- Settles O50: after INIT and GENKEYS the state is the one in which HASH formats, but for the responses,
which neither ENCODE nor `STATUS` reads. -/
theorem hashEqualsInitGenkeysEncode : Obligations.HashEqualsInitGenkeysEncode := by
  intro s hv
  obtain ⟨rs, hgenkeys⟩ := runCommands_init_genkeys hv
  have hencode : exec .encode (s.withTables (s.stretch (initTables s.cfg)) .final rs) = _ :=
    exec_encode_completes rfl (State.validate_none_of_valid { hv with } _)
  refine ⟨_, ({ s.hashed with responses := rs } : State).encodeResult.answeringStatus,
    exec_hash_hashed hv, ?_, rfl, ?_⟩
  · exact (runCommands_append (js := [.encode]) hgenkeys).trans (runCommands_cons hencode)
  · simp only [State.lastResponse, State.answeringStatus_responses, List.getLast?_concat]
    rfl

/-! ## HASH as a function of its arguments -/

/-- Two runs of bytes that are the same hold the same bytes. -/
theorem Memory.read_of_readN_eq {m m' : Memory} {i n k : Nat} (h : m.readN i n = m'.readN i n)
    (hk : k < n) : m.read (i + k) = m'.read (i + k) := by
  rw [← m.getElem_readN i n k (by simpa using hk), ← m'.getElem_readN i n k (by simpa using hk)]
  simp only [h]

/-- The ciphertext and the string under the same parameters, tables, `COST` and salt do not depend on what
the buffers held (R170, R174). -/
theorem encodeResult_congr {s s' : State} (hc : s.cfg.Wf) (hd : s.d.wf) (hd' : s'.d.wf) (ho : s.out.wf)
    (ho' : s'.out.wf) (hcfg : s'.cfg = s.cfg) (htab : s'.tab = s.tab) (hcost : s'.cost = s.cost)
    (hsalt : s'.saltBytes = s.saltBytes) :
    (∀ i < 24, s'.encodeResult.d.read i = s.encodeResult.d.read i) ∧
      ∀ i < s.cfg.outLen, s'.encodeResult.out.read i = s.encodeResult.out.read i := by
  obtain ⟨-, hblocks, hout⟩ := encodeResult_spec hc hd ho
  obtain ⟨-, hblocks', hout'⟩ := encodeResult_spec (hcfg ▸ hc) hd' ho'
  rw [hcfg, htab] at hblocks'
  have hbytes := readN_of_blocks fun j hj => (hblocks' ⟨j, hj⟩).trans (hblocks ⟨j, hj⟩).symm
  refine ⟨hbytes, fun i hi => ?_⟩
  have hd24 : s'.encodeResult.d.readN 0 24 = s.encodeResult.d.readN 0 24 :=
    Memory.readN_congr fun k _ hk => hbytes k (by omega)
  have htext : s'.encodeResult.out.readN 0 s.cfg.outLen = s.encodeResult.out.readN 0 s.cfg.outLen := by
    rw [hcfg] at hout'
    rw [hout, hout', hcost, hsalt, hashText, hashText, hashField, hashField, hd24]
  simpa only [Nat.zero_add] using Memory.read_of_readN_eq htext hi

/-- Settles O51: the finished tables are a function of the arguments, and ciphertext and string one of the
tables and the arguments. -/
theorem hashDependsOnlyOnItsArguments : Obligations.HashDependsOnlyOnItsArguments := by
  intro s s' hinv hinv' hv hcfg hcost hslen hplen hsalt hpw
  have hv' : s'.InputsValid := by
    rw [← State.validate_all_none] at hv ⊢
    rwa [State.validate_congr _ hcfg hcost hslen hplen]
  have hsaltBytes : s'.saltBytes = s.saltBytes :=
    Memory.readN_congr fun k _ hk => hsalt k (by omega)
  have hpwBytes : s'.passwordBytes = s.passwordBytes := by
    rw [State.passwordBytes, hplen]
    exact Memory.readN_congr fun k _ hk => hpw k (by omega)
  have htab : s'.hashed.tab = s.hashed.tab := by
    simp only [State.hashed, State.stretch, hpwBytes, hsaltBytes, hplen, hcost, hcfg]
  obtain ⟨hbytes, hstring⟩ := encodeResult_congr (s := s.hashed) (s' := s'.hashed) hinv.config
    hinv.spaces.d_wf hinv'.spaces.d_wf hinv.spaces.out_wf hinv'.spaces.out_wf hcfg htab hcost hsaltBytes
  refine ⟨_, _, exec_hash_hashed hv, exec_hash_hashed hv', htab, rfl, ?_, ?_, hbytes, hstring⟩
  · exact (encodeResult_dlen_eq (s := s'.hashed) hinv'.spaces.d_wf).trans
      (encodeResult_dlen_eq (s := s.hashed) hinv.spaces.d_wf).symm
  · exact congrArg (fun c : Config => BitVec.ofNat 8 c.outLen) hcfg

end Sys2Proof.Machine
end

section
/-!
SUPPORT. The host commands (spec/44_host_commands.md): housekeeping, loads and reads, each check with the
answer of its two branches, and what a failing command changes (R206).
-/

namespace Sys2Proof.Machine

/-! ## The word and its command -/

/-- Settles O5. -/
theorem stepRunsTheDecodedCommand : Obligations.StepRunsTheDecodedCommand := by
  intro s w rest i hin hw
  rw [step_of_command hin, runWord_of_decode hw]

/-! ## A command that fails -/

/-- From `ERR = 0` the error entry writes the new code (60 R222). -/
theorem State.errored_of_clear {s : State} (h : s.err = false) (c : BitVec 4) :
    s.errored c = { s with err := true, errcode := c } := by
  rw [State.errored, h]
  rfl

/-- A command whose checks pass records no error. -/
theorem Effect.err_of_clear {i : Instr} {s u : State} (he : Effect s i u) (h : s.err = false) :
    u.err = false := by
  by_cases hi : i = .clrerr
  · subst hi
    cases he
    rfl
  · rw [he.err_eq hi, h]

/-- Settles O15: of the five ways a command can end, the two that record no error leave `ERR = 0`; ENCODE
and HASH, and they alone, drop their result before they fail. -/
theorem failingCommandChangesOnlyTheRecordAndEncoderOlen :
    Obligations.FailingCommandChangesOnlyTheRecordAndEncoderOlen := by
  intro i s t hs ht hterr
  have h := exec_ending i s
  rw [ht] at h
  cases h with
  | changed he _ => exact absurd ((he.err_of_clear hs).symm.trans hterr) Bool.false_ne_true
  | failed k _ _ hi => exact ⟨k, by rw [if_neg (not_or.2 hi), State.errored_of_clear hs]; rfl⟩
  | dropped k _ hi =>
    exact ⟨k, by rw [if_pos hi, State.errored_of_clear (s := s.dropResult) hs]; rfl⟩
  | readFailed k _ hi =>
    have hno : ¬(i = .encode ∨ i = .hash) := by rintro (rfl | rfl) <;> cases hi
    exact ⟨k, by rw [if_neg hno, State.errored_of_clear hs]; rfl⟩
  | read v _ => exact absurd (hs.symm.trans hterr) Bool.false_ne_true

/-! ## Housekeeping -/

/-- Settles O20. -/
theorem nopAndRdstatOnlyRespondStatus : Obligations.NopAndRdstatOnlyRespondStatus := fun _ =>
  ⟨Effect.nop.exec_eq, Effect.rdstat.exec_eq⟩

/-- Settles O21: the table words of the reset state are those of the next draw. -/
theorem clrKeepsOnlyTheErrorRecord : Obligations.ClrKeepsOnlyTheErrorRecord := fun s =>
  ⟨Tables.free s.freeNext, s.freeNext + 1, Effect.clr.exec_eq⟩

/-- Settles O22. -/
theorem clrerrClearsOnlyTheRecord : Obligations.ClrerrClearsOnlyTheRecord := fun _ =>
  Effect.clrerr.exec_eq

/-! ## Loads -/

/-- The check of a load fails: the error is recorded and `STATUS` responded. -/
theorem ite_reject {c : Prop} [Decidable c] {s : State} {k : ErrKind} {r : Result} (h : c) :
    (if c then reject k s else r) = .next (s.errored k.code).answeringStatus := by
  rw [if_pos h, reject_eq]

/-- A byte space after one byte was written, from the side of the byte read. -/
theorem Memory.read_write_eq_ite {m : Memory} (h : m.wf) (a : Nat) (b : Byte) (i : Nat) :
    (m.write a b).read i = if i = a then b else m.read i := by
  rw [Memory.read_write h]
  exact if_congr eq_comm rfl rfl

/-- Settles O23. -/
theorem setcostAndSetslenStoreAnyByte : Obligations.SetcostAndSetslenStoreAnyByte := fun b _ =>
  ⟨(Effect.setcost b).exec_eq, (Effect.setslen b).exec_eq⟩

/-- Settles O24. -/
theorem setplenStoresUpToTheCapacity : Obligations.SetplenStoresUpToTheCapacity := fun a _ =>
  ⟨fun h => ite_reject h, fun h => (Effect.setplen a h).exec_eq⟩

/-- Settles O25. -/
theorem setdlenStoresUpToTheCapacity : Obligations.SetdlenStoresUpToTheCapacity := fun a _ =>
  ⟨fun h => ite_reject h, fun h => (Effect.setdlen a h).exec_eq⟩

/-- Settles O26. -/
theorem ldsaltWritesOneSaltByte : Obligations.LdsaltWritesOneSaltByte := fun a b _ hwf =>
  ⟨fun h => ite_reject h,
    fun h => ⟨_, (Effect.ldsalt a b h).exec_eq, Memory.read_write_eq_ite hwf a.toNat b⟩⟩

/-- Settles O27. -/
theorem ldpwWritesOnePasswordByte : Obligations.LdpwWritesOnePasswordByte := fun a b _ hwf =>
  ⟨fun h => ite_reject h,
    fun h => ⟨_, (Effect.ldpw a b h).exec_eq, Memory.read_write_eq_ite hwf a.toNat b⟩⟩

/-- Settles O28. -/
theorem lddWritesOneDataByte : Obligations.LddWritesOneDataByte := fun a b _ hwf =>
  ⟨fun h => ite_reject h,
    fun h => ⟨_, (Effect.ldd a b h).exec_eq, Memory.read_write_eq_ite hwf a.toNat b⟩⟩

/-! ## Reads -/

/-- The check of a read fails: the error is recorded and 0 responded. -/
theorem ite_rejectRead {c : Prop} [Decidable c] {s : State} {k : ErrKind} {r : Result} (h : c) :
    (if c then rejectRead k s else r) = .next ((s.errored k.code).answering 0) := by
  rw [if_pos h, rejectRead_eq]

section

variable {s : State} {a : Half}

/-- No selector above 4 (R201). -/
theorem State.lengthRegister_eq_none (h : 4 < a.toNat) : s.lengthRegister a = none := by
  unfold State.lengthRegister
  split
  case h_6 => rfl
  all_goals omega

theorem exec_rdlen_of_none (h : s.lengthRegister a = none) :
    exec (.rdlen a) s = .next ((s.errored ErrKind.badIndex.code).answering 0) := by
  show execRdlen a s = _
  rw [execRdlen, h]
  exact rejectRead_eq _ s

theorem exec_rdlen_of_some {v : Word} (h : s.lengthRegister a = some v) :
    exec (.rdlen a) s = .next (s.answering v) := by
  show execRdlen a s = _
  rw [execRdlen, h]
  exact acceptRead_eq v s

/-- Box `a div 256`, entry `a mod 256` is the table word after the 18 words of `P` and the `a` words
before it (10 R23). -/
theorem Tables.sAt_eq_word (x : Tables) {n : Nat} (h : n < 1024) : x.sAt n h = x.word (18 + n) := by
  rw [Tables.sAt, ← Tables.word_s]
  congr 1
  dsimp only
  omega

theorem exec_rdp_inside (h : s.tstate ≠ .uninit) (ha : a.toNat < 18) :
    exec (.rdp a) s = .next (s.answering (s.tab.word a.toNat)) := by
  show execRdp a s = _
  rw [execRdp, if_neg h, dif_pos ha, ← Tables.word_p, acceptRead_eq]

theorem exec_rdp_outside (h : s.tstate ≠ .uninit) (ha : 18 ≤ a.toNat) :
    exec (.rdp a) s = .next ((s.errored ErrKind.badIndex.code).answering 0) := by
  show execRdp a s = _
  rw [execRdp, if_neg h, dif_neg (not_lt.2 ha), rejectRead_eq]

theorem exec_rds_inside (h : s.tstate ≠ .uninit) (ha : a.toNat < 1024) :
    exec (.rds a) s = .next (s.answering (s.tab.word (18 + a.toNat))) := by
  show execRds a s = _
  rw [execRds, if_neg h, dif_pos ha, Tables.sAt_eq_word, acceptRead_eq]

theorem exec_rds_outside (h : s.tstate ≠ .uninit) (ha : 1024 ≤ a.toNat) :
    exec (.rds a) s = .next ((s.errored ErrKind.badIndex.code).answering 0) := by
  show execRds a s = _
  rw [execRds, if_neg h, dif_neg (not_lt.2 ha), rejectRead_eq]

theorem exec_rdd_inside (h : a.toNat < s.cfg.dMax) :
    exec (.rdd a) s = .next (s.answering ((s.d.read a.toNat).setWidth 32)) := by
  show execRdd a s = _
  rw [execRdd, if_neg (not_le.2 h), acceptRead_eq]

end

/-- Settles O30: the selector picks the register, or none. -/
theorem rdlenRespondsALengthRegister : Obligations.RdlenRespondsALengthRegister := by
  intro a s
  refine ⟨fun h => exec_rdlen_of_none (State.lengthRegister_eq_none h), fun h => ?_, fun h => ?_,
    fun h => ?_, fun h => ?_, fun h => ?_⟩ <;>
  exact exec_rdlen_of_some (by simp only [State.lengthRegister, h])

/-- Settles O31: the tag is checked before the index. -/
theorem rdpAndRdsRespondATableWord : Obligations.RdpAndRdsRespondATableWord := fun _ _ =>
  ⟨fun h => ⟨ite_rejectRead h, ite_rejectRead h⟩,
    fun h => ⟨exec_rdp_outside h, exec_rdp_inside h, exec_rds_outside h, exec_rds_inside h⟩⟩

/-- Settles O32: RDD checks the index against the capacity, RDOUT against `OLEN`. -/
theorem rddAndRdoutRespondAByte : Obligations.RddAndRdoutRespondAByte := fun _ _ =>
  ⟨fun h => ite_rejectRead h, exec_rdd_inside, fun h => ite_rejectRead h, exec_rdout_inside⟩

end Sys2Proof.Machine
end

section
/-!
SUPPORT. The error model (spec/60_exceptions.md): the recorded error under every command (R222, R225, R226),
and the order of input validation (R221).
-/

namespace Sys2Proof.Machine

/-! ## A recorded error -/

/-- CLRERR is the only effect that writes the code of the record. -/
theorem Effect.errcode_eq {s u : State} {i : Instr} (he : Effect s i u) (hclrerr : i ≠ .clrerr) :
    u.errcode = s.errcode := by
  cases he with
  | clrerr => exact absurd rfl hclrerr
  | _ => rfl

/-- The first error sticks (60 R222). -/
theorem State.errored_errcode_of_err {s : State} (h : s.err = true) (c : BitVec 4) :
    (s.errored c).errcode = s.errcode := by
  rw [State.errored_errcode, if_pos h]

/-- Settles O14: no effect but that of CLRERR writes the record, and a further failure keeps the code. -/
theorem recordedErrorStaysUntilClrerr : Obligations.RecordedErrorStaysUntilClrerr := by
  intro i s hclrerr hs
  exact exec_answers_of (P := fun t => t.err = true ∧ t.errcode = s.errcode) (fun _ h => h)
    (fun _ ⟨herr, hcode⟩ => ⟨rfl, (State.errored_errcode_of_err herr _).trans hcode⟩)
    ⟨hs, rfl⟩ (fun _ => ⟨hs, rfl⟩)
    fun he => ⟨(he.err_eq hclrerr).trans hs, he.errcode_eq hclrerr⟩

/-! ## Input validation -/

theorem State.not_costValid_iff (s : State) :
    (!s.costValid) = true ↔ s.cost.toNat < s.cfg.costMin ∨ s.cfg.costMax < s.cost.toNat := by
  rw [Bool.not_eq_true', ← Bool.not_eq_true, s.costValid_iff, not_and_or, not_le, not_le]

/-- The three checks of `Validate`, as propositions (60 R221). -/
theorem State.validate_eq (u : Uses) (s : State) : s.validate u =
    if u.cost = true ∧ (s.cost.toNat < s.cfg.costMin ∨ s.cfg.costMax < s.cost.toNat) then
      some .invalidCost
    else if u.salt = true ∧ s.slen.toNat ≠ 16 then some .invalidSaltLength
    else if u.pw = true ∧ s.plen.toNat = 0 then some .emptyPassword
    else none := by
  simp only [State.validate, Bool.and_eq_true, s.not_costValid_iff, decide_eq_true_eq]

/-- Settles O17: each check is reached when those before it pass. -/
theorem validationOrder : Obligations.ValidationOrder := by
  intro u s badCost badSalt badPw
  rw [s.validate_eq u]
  refine ⟨fun hc => if_pos hc, fun hc hs => ?_, fun hc hs hp => ?_, fun hc hs hp => ?_⟩
  · rw [if_neg hc, if_pos hs]
  · rw [if_neg hc, if_neg hs, if_pos hp]
  · rw [if_neg hc, if_neg hs, if_neg hp]

end Sys2Proof.Machine
end

section
/-!
SUPPORT. Reset at the port (spec/70_reset_and_hazards.md R250, R255).
-/

namespace Sys2Proof.Machine

/-- Once the event is taken off the port, reset keeps of the state the parameters, the events to come and
the responses; the table words are those of the next draw (10 R35). -/
theorem State.takeReset_of_input (s : State) (rest : List HostEvent) :
    ({ s with input := rest } : State).takeReset =
      { State.resetWith s.cfg (Tables.free s.freeNext) with
        freeNext := s.freeNext + 1, input := rest, responses := s.responses } := rfl

/-- Settles O11: a reset between commands and one that cuts a command short are the same step. -/
theorem resetEventGivesTheResetState : Obligations.ResetEventGivesTheResetState := by
  intro s rest w hinput
  have hstep : step s = .next ({ s with input := rest } : State).takeReset :=
    hinput.elim step_of_reset step_of_cutShort
  exact ⟨_, _, hstep.trans (congrArg _ (s.takeReset_of_input rest))⟩

end Sys2Proof.Machine
end
